-- ==== Sys2Proof/Word.lean ====
section
/-! DEFINITION. The word types and the two value types every operand is made of
(00_scope.md R8, R9, R10; 10_state.md R23, R33). -/

namespace Sys2Proof

/-- A command, payload or response word: 64 bits, bit 63 most significant (30_encoding.md R80). -/
abbrev Word := BitVec 64

/-- A byte (00_scope.md R9). -/
abbrev Byte := BitVec 8

/-- "immutable triple (R, G, B: 8-bit each)" (00_scope.md R17). A colour is a value: two colours are
the same when their components are equal (10_state.md R33). -/
structure Color where
  r : Byte
  g : Byte
  b : Byte
  deriving DecidableEq, Repr, Inhabited

/-- `BLACK = Color(0, 0, 0)` (00_scope.md R10). -/
def Color.black : Color := ⟨0, 0, 0⟩

/-- TimingProfile: four 8-bit durations; every value is legal (10_state.md R23). -/
structure TimingProfile where
  oneHigh  : Byte
  oneLow   : Byte
  zeroHigh : Byte
  zeroLow  : Byte
  deriving DecidableEq, Repr, Inhabited

end Sys2Proof
end

