-- ==== Sys2Proof/Config.lean ====
section
/-! DEFINITION. What the hardware fixes and the spec leaves without a value (00_scope.md R7, D32), and
the free values of what a raced transmission delivers (93_implementation_defined.md U2, U5, U6). -/

namespace Sys2Proof

/-- The open parameters of 00_scope.md R7. HEADER_BYTES is the length of `header`, so HEADER is a vector
of HEADER_BYTES bytes by construction. `txDurations` is the attached transmitter's own four duration
fields (60_exceptions.md R200, R204): the core never reads it, the host does (70_reset_and_hazards.md
R226). DESIGN CHOICE (log 1, log 18). Safe: nothing is assumed about any field. -/
structure Params where
  header          : List Byte
  highMarker      : Byte
  lowMarker       : Byte
  txCopiesOnSend  : Bool
  txDurations     : TimingProfile
  deriving DecidableEq, Repr, Inhabited

/-- `HEADER_BYTES`, written `HB` (00_scope.md R7). -/
def Params.headerBytes (p : Params) : Nat := p.header.length

/-- The parameters of the hardware at hand: no body, so nothing can be proved of their values
(00_scope.md R7 "None may be assumed zero or equal to the test configuration"). -/
opaque Config.params : Params

/-- FREE VALUE (log 8): byte `index` of what the strip receives from transmission `serial` when that is
unspecified (93_implementation_defined.md U2, U5, U6 "any value"). -/
opaque Config.strayByte : (serial : Nat) → (index : Nat) → Byte

/-- FREE VALUE (log 8): how many bytes the strip receives from transmission `serial` when even that is
unspecified (U5, U6: the transmission may be dropped or cut short). -/
opaque Config.strayLength : (serial : Nat) → Nat

end Sys2Proof
end

