-- ==== Sys2Proof/Syntax.lean ====
section
/-! DEFINITION. The fifteen commands (30_encoding.md R84) as one inductive type, their opcodes, and the
reasons a word is rejected by the decoder. -/

namespace Sys2Proof

/-- One constructor per row of spec/opcode_table.json. Every operand is an immediate of the header word
(30_encoding.md R82, R83), a bit field of the width rule R8 gives it. -/
inductive Instr where
  /-- `PE_ENCODE rgb, tp` (40_pulse_encoder.md R114). -/
  | peEncode (color : Color) (profile : TimingProfile)
  /-- `CB_NEW pixelCount, tp` (41_command_buffer.md R121). -/
  | cbNew (pixelCount : BitVec 16) (profile : TimingProfile)
  /-- `CB_SETCOLOR index, rgb` (41_command_buffer.md R123). -/
  | cbSetColor (index : BitVec 16) (color : Color)
  /-- `CB_SETALL [c0, ...]` (41_command_buffer.md R125), with its payload received: `count` is the
  header's field, `colors` the colours of the well-formed payload words in order, `malformed` says that
  some payload word had a reserved bit set. 30_encoding.md R96 names this form: "one abstract command
  carrying a list of `count` colours plus a payload malformed flag" (log 11). -/
  | cbSetAll (count : BitVec 16) (colors : List Color) (malformed : Bool)
  /-- `CB_SHIFTR start, length, steps` (41_command_buffer.md R128). -/
  | cbShiftR (start length steps : BitVec 16)
  /-- `CB_SHIFTL start, length, steps` (41_command_buffer.md R129). -/
  | cbShiftL (start length steps : BitVec 16)
  /-- `CB_SEND wait|nowait` (41_command_buffer.md R132). -/
  | cbSend (blocking : Bool)
  /-- `CB_TURNOFF wait|nowait` (41_command_buffer.md R134). -/
  | cbTurnOff (blocking : Bool)
  /-- `CB_RELEASE` (41_command_buffer.md R136). -/
  | cbRelease
  /-- `GM_INDEX x, y, width, height, mode` (42_grid_mapper.md R152). -/
  | gmIndex (x y width height mode : BitVec 8)
  /-- `GM_SHIFT mode, rowCount, width, steps` (42_grid_mapper.md R155). -/
  | gmShift (mode rowCount width : BitVec 8) (steps : BitVec 16)
  /-- `DISP_NEW width, height, mode, tp` (43_display.md R166). -/
  | dispNew (width height mode : BitVec 8) (profile : TimingProfile)
  /-- `DISP_SETPIXEL x, y, rgb` (43_display.md R168). -/
  | dispSetPixel (x y : BitVec 8) (color : Color)
  /-- `DISP_RENDER` (43_display.md R170). -/
  | dispRender
  /-- `DISP_SHIFTR steps, wait|nowait` (43_display.md R172). -/
  | dispShiftR (steps : BitVec 16) (blocking : Bool)
  deriving DecidableEq, Repr

/-- The one pseudo-command: `DISP_SHIFTR wait|nowait` with `steps` omitted stands for
`DISP_SHIFTR 1, wait|nowait` (30_encoding.md R105). -/
abbrev Instr.dispShiftRDefault (blocking : Bool) : Instr := .dispShiftR 1 blocking

/-- The fifteen opcodes of 30_encoding.md R84. -/
inductive Opcode where
  | peEncode | cbNew | cbSetColor | cbSetAll | cbShiftR | cbShiftL | cbSend | cbTurnOff | cbRelease
  | gmIndex | gmShift | dispNew | dispSetPixel | dispRender | dispShiftR
  deriving DecidableEq, Repr

/-- Why the decoder gives no command. -/
inductive Reject where
  /-- No word at all (an empty list of words). -/
  | noWord
  /-- The opcode is not one of the fifteen (30_encoding.md R86). -/
  | unknownOpcode (opcode : Byte)
  /-- A reserved bit of the opcode's format is set (30_encoding.md R85). -/
  | reservedBits (opcode : Opcode)
  /-- The list of words after the header does not have the length the header asks for
  (30_encoding.md R88). The machine never meets this one: its decoder phase counts the words. -/
  | payloadLength (expected got : Nat)
  deriving DecidableEq, Repr

end Sys2Proof
end

