-- ==== Sys2Proof/WellFormed.lean ====
section
/-! DEFINITION. Which terms of `Instr` are commands the command stream can carry. Field widths are in the
types; the one relation left is between the three parts of `CB_SETALL` (30_encoding.md R88, R96). -/

namespace Sys2Proof

/-- A `CB_SETALL` whose payload is clean carries exactly `count` colours; one that is marked malformed
carries fewer, since a word that sets the mark appends no colour (30_encoding.md R96). Every other
term is well formed: "No field value makes a header illegal" (R106). -/
def Instr.wellFormed : Instr → Bool
  | .peEncode _ _ => true
  | .cbNew _ _ => true
  | .cbSetColor _ _ => true
  | .cbSetAll count colors malformed =>
      if malformed then decide (colors.length < count.toNat)
      else decide (colors.length = count.toNat)
  | .cbShiftR _ _ _ => true
  | .cbShiftL _ _ _ => true
  | .cbSend _ => true
  | .cbTurnOff _ => true
  | .cbRelease => true
  | .gmIndex _ _ _ _ _ => true
  | .gmShift _ _ _ _ => true
  | .dispNew _ _ _ _ => true
  | .dispSetPixel _ _ _ => true
  | .dispRender => true
  | .dispShiftR _ _ => true

end Sys2Proof
end

