-- ==== Sys2Proof/Decode.lean ====
section
/-! DEFINITION. The decoder, total on any words and rejecting by name (30_encoding.md R80 to R88, R106),
the encoder written from the same table, and the text form of a command (R104). -/

namespace Sys2Proof

/-- `Wd[lo+len-1 : lo]` (00_scope.md R9). -/
def field (w : Word) (lo len : Nat) : BitVec len := w.extractLsb' lo len

/-- A word that holds `v` in bits `lo` and up and zero elsewhere. -/
def place {n : Nat} (v : BitVec n) (lo : Nat) : Word := v.setWidth 64 <<< lo

/-- "Every header word has the opcode in `Wd[63:56]`" (30_encoding.md R81). -/
def opcodeOf (w : Word) : Byte := field w 56 8

/-- The opcode numbers (30_encoding.md R84). -/
def Opcode.byte : Opcode → Byte
  | .peEncode => 0x01
  | .cbNew => 0x10
  | .cbSetColor => 0x11
  | .cbSetAll => 0x12
  | .cbShiftR => 0x13
  | .cbShiftL => 0x14
  | .cbSend => 0x15
  | .cbTurnOff => 0x16
  | .cbRelease => 0x17
  | .gmIndex => 0x20
  | .gmShift => 0x21
  | .dispNew => 0x30
  | .dispSetPixel => 0x31
  | .dispRender => 0x32
  | .dispShiftR => 0x33

/-- The opcode map read backwards; every other byte is illegal (30_encoding.md R86). -/
def Opcode.ofByte (b : Byte) : Option Opcode :=
  match b.toNat with
  | 0x01 => some .peEncode
  | 0x10 => some .cbNew
  | 0x11 => some .cbSetColor
  | 0x12 => some .cbSetAll
  | 0x13 => some .cbShiftR
  | 0x14 => some .cbShiftL
  | 0x15 => some .cbSend
  | 0x16 => some .cbTurnOff
  | 0x17 => some .cbRelease
  | 0x20 => some .gmIndex
  | 0x21 => some .gmShift
  | 0x30 => some .dispNew
  | 0x31 => some .dispSetPixel
  | 0x32 => some .dispRender
  | 0x33 => some .dispShiftR
  | _ => none

/-- The reserved bits of each opcode's format, as (lowest bit, number of bits): the "rsv" fields of
30_encoding.md R82. Every format has one such field or none. -/
def Opcode.rsv : Opcode → Nat × Nat
  | .peEncode => (0, 0)       -- format E: none
  | .cbNew => (32, 8)         -- format N: [39:32]
  | .cbSetColor => (24, 16)   -- format C: [39:24]
  | .cbSetAll => (0, 40)      -- format A: [39:0]
  | .cbShiftR => (0, 8)       -- format S: [7:0]
  | .cbShiftL => (0, 8)       -- format S: [7:0]
  | .cbSend => (1, 55)        -- format B: [55:1]
  | .cbTurnOff => (1, 55)     -- format B: [55:1]
  | .cbRelease => (0, 56)     -- format Z: [55:0]
  | .gmIndex => (0, 16)       -- format G: [15:0]
  | .gmShift => (0, 16)       -- format T: [15:0]
  | .dispNew => (0, 0)        -- format D: none
  | .dispSetPixel => (24, 16) -- format P: [39:24]
  | .dispRender => (0, 56)    -- format Z: [55:0]
  | .dispShiftR => (1, 39)    -- format H: [39:1]

/-- The opcode of a command (30_encoding.md R84). -/
def Instr.opcode : Instr → Opcode
  | .peEncode _ _ => .peEncode
  | .cbNew _ _ => .cbNew
  | .cbSetColor _ _ => .cbSetColor
  | .cbSetAll _ _ _ => .cbSetAll
  | .cbShiftR _ _ _ => .cbShiftR
  | .cbShiftL _ _ _ => .cbShiftL
  | .cbSend _ => .cbSend
  | .cbTurnOff _ => .cbTurnOff
  | .cbRelease => .cbRelease
  | .gmIndex _ _ _ _ _ => .gmIndex
  | .gmShift _ _ _ _ => .gmShift
  | .dispNew _ _ _ _ => .dispNew
  | .dispSetPixel _ _ _ => .dispSetPixel
  | .dispRender => .dispRender
  | .dispShiftR _ _ => .dispShiftR

/-- Legality of a header word: the opcode is in the table and no reserved bit of its format is set
(30_encoding.md R85, R86, R106). -/
def headerOpcode (w : Word) : Except Reject Opcode :=
  match Opcode.ofByte (opcodeOf w) with
  | none => .error (.unknownOpcode (opcodeOf w))
  | some op => if field w op.rsv.1 op.rsv.2 = 0 then .ok op else .error (.reservedBits op)

/-- A colour in `[23:0]`: R, G, B (30_encoding.md R83). -/
def colorField (w : Word) : Color := ⟨field w 16 8, field w 8 8, field w 0 8⟩

/-- A profile in `[31:0]`: oneHigh, oneLow, zeroHigh, zeroLow (30_encoding.md R83). -/
def profileField (w : Word) : TimingProfile := ⟨field w 24 8, field w 16 8, field w 8 8, field w 0 8⟩

/-- The `blocking` bit `[0]` (30_encoding.md R82 formats B and H). -/
def blockingField (w : Word) : Bool := field w 0 1 == 1

/-- Accepting one payload word (30_encoding.md R96): a word with any of bits `[63:24]` set sets the error
mark and appends nothing, any other word appends its colour. -/
def acceptPayload (acc : List Color × Bool) (w : Word) : List Color × Bool :=
  if field w 24 40 = 0 then (acc.1 ++ [colorField w], acc.2) else (acc.1, true)

/-- How many payload words follow a header: `count` for a legal `CB_SETALL`, none for any other word,
legal or illegal (30_encoding.md R86, R88). -/
def payloadCount (w : Word) : Nat :=
  match headerOpcode w with
  | .ok .cbSetAll => (field w 40 16).toNat
  | _ => 0

/-- The operand fields of each format (30_encoding.md R82, R83), and the payload of `CB_SETALL`. -/
def operands (op : Opcode) (w : Word) (payload : List Word) : Instr :=
  match op with
  | .peEncode => .peEncode ⟨field w 48 8, field w 40 8, field w 32 8⟩ (profileField w)
  | .cbNew => .cbNew (field w 40 16) (profileField w)
  | .cbSetColor => .cbSetColor (field w 40 16) (colorField w)
  | .cbSetAll =>
      .cbSetAll (field w 40 16) (payload.foldl acceptPayload ([], false)).1
        (payload.foldl acceptPayload ([], false)).2
  | .cbShiftR => .cbShiftR (field w 40 16) (field w 24 16) (field w 8 16)
  | .cbShiftL => .cbShiftL (field w 40 16) (field w 24 16) (field w 8 16)
  | .cbSend => .cbSend (blockingField w)
  | .cbTurnOff => .cbTurnOff (blockingField w)
  | .cbRelease => .cbRelease
  | .gmIndex => .gmIndex (field w 48 8) (field w 40 8) (field w 32 8) (field w 24 8) (field w 16 8)
  | .gmShift => .gmShift (field w 48 8) (field w 40 8) (field w 32 8) (field w 16 16)
  | .dispNew => .dispNew (field w 48 8) (field w 40 8) (field w 32 8) (profileField w)
  | .dispSetPixel => .dispSetPixel (field w 48 8) (field w 40 8) (colorField w)
  | .dispRender => .dispRender
  | .dispShiftR => .dispShiftR (field w 40 16) (blockingField w)

/-- The decoder on a header word and the words that follow it (30_encoding.md R106, R88). -/
def decode (w : Word) (payload : List Word) : Except Reject Instr :=
  match headerOpcode w with
  | .error e => .error e
  | .ok op =>
      if payload.length = payloadCount w then .ok (operands op w payload)
      else .error (.payloadLength (payloadCount w) payload.length)

/-- The decoder on a whole command as it stands in the command stream. -/
def decodeWords : List Word → Except Reject Instr
  | [] => .error .noWord
  | w :: payload => decode w payload

/-- A colour in `[23:0]` (30_encoding.md R83); alone, a payload word (R88: `[63:24]` zero). -/
def colorWord (c : Color) : Word := place c.r 16 ||| place c.g 8 ||| place c.b 0

/-- A payload word with a reserved bit set (bit 24), which the encoder writes for each colour a malformed
`CB_SETALL` lacks (log 11). -/
def malformedWord : Word := 0x0000000001000000

/-- The four duration bytes of a profile in `[31:0]` (30_encoding.md R83). -/
def profileWord (t : TimingProfile) : Word :=
  place t.oneHigh 24 ||| place t.oneLow 16 ||| place t.zeroHigh 8 ||| place t.zeroLow 0

/-- The blocking bit as one bit: 1 blocking, 0 non-blocking (30_encoding.md R83). -/
def blockingBit (b : Bool) : BitVec 1 := if b then 1 else 0

/-- The header word of a command: its opcode and its operand fields, each at its place, reserved bits
zero (30_encoding.md R82, R84). -/
def encodeHeader : Instr → Word
  | .peEncode c t =>
      place (Opcode.byte .peEncode) 56 ||| place c.r 48 ||| place c.g 40 ||| place c.b 32 ||| profileWord t
  | .cbNew n t => place (Opcode.byte .cbNew) 56 ||| place n 40 ||| profileWord t
  | .cbSetColor i c => place (Opcode.byte .cbSetColor) 56 ||| place i 40 ||| colorWord c
  | .cbSetAll n _ _ => place (Opcode.byte .cbSetAll) 56 ||| place n 40
  | .cbShiftR a l k => place (Opcode.byte .cbShiftR) 56 ||| place a 40 ||| place l 24 ||| place k 8
  | .cbShiftL a l k => place (Opcode.byte .cbShiftL) 56 ||| place a 40 ||| place l 24 ||| place k 8
  | .cbSend b => place (Opcode.byte .cbSend) 56 ||| place (blockingBit b) 0
  | .cbTurnOff b => place (Opcode.byte .cbTurnOff) 56 ||| place (blockingBit b) 0
  | .cbRelease => place (Opcode.byte .cbRelease) 56
  | .gmIndex x y wd ht m =>
      place (Opcode.byte .gmIndex) 56 ||| place x 48 ||| place y 40 ||| place wd 32 ||| place ht 24 |||
        place m 16
  | .gmShift m rc wd k =>
      place (Opcode.byte .gmShift) 56 ||| place m 48 ||| place rc 40 ||| place wd 32 ||| place k 16
  | .dispNew wd ht m t =>
      place (Opcode.byte .dispNew) 56 ||| place wd 48 ||| place ht 40 ||| place m 32 ||| profileWord t
  | .dispSetPixel x y c => place (Opcode.byte .dispSetPixel) 56 ||| place x 48 ||| place y 40 ||| colorWord c
  | .dispRender => place (Opcode.byte .dispRender) 56
  | .dispShiftR k b => place (Opcode.byte .dispShiftR) 56 ||| place k 40 ||| place (blockingBit b) 0

/-- The payload words of a command: those of `CB_SETALL`, none for any other (30_encoding.md R88). -/
def encodePayload : Instr → List Word
  | .cbSetAll n cs _ => cs.map colorWord ++ List.replicate (n.toNat - cs.length) malformedWord
  | .peEncode _ _ | .cbNew _ _ | .cbSetColor _ _ | .cbShiftR _ _ _ | .cbShiftL _ _ _ | .cbSend _
  | .cbTurnOff _ | .cbRelease | .gmIndex _ _ _ _ _ | .gmShift _ _ _ _ | .dispNew _ _ _ _
  | .dispSetPixel _ _ _ | .dispRender | .dispShiftR _ _ => []

/-- The encoder: the words of a command, header first. -/
def encode (i : Instr) : List Word := encodeHeader i :: encodePayload i

/-- The payload words of a table row's bit string: word `j+1` of `v`, for each payload word the header
asks for; bits the string does not have are zero. -/
def tablePayload (v count : Nat) : List Word :=
  (List.range count).map fun j => BitVec.ofNat 64 (v >>> (64 * (j + 1)))

/-- The instruction the decoder reads from an instruction of `nbits` bits `w`, numbered as
spec/opcode_table.json numbers them (bit 0 the least significant bit of the header word), with every
bit above `nbits` zero. -/
def decodeTableWord (nbits w : Nat) : Option Instr :=
  let v := w % 2 ^ nbits
  let header : Word := BitVec.ofNat 64 v
  match decode header (tablePayload v (payloadCount header)) with
  | .ok i => some i
  | .error _ => none

/-! ### The text form (30_encoding.md R104): a notation, not part of the machine. -/

/-- `rgb(r, g, b)`. -/
def Color.text (c : Color) : String :=
  "rgb(" ++ toString c.r.toNat ++ "," ++ toString c.g.toNat ++ "," ++ toString c.b.toNat ++ ")"

/-- `tp(oneHigh, oneLow, zeroHigh, zeroLow)`. -/
def TimingProfile.text (t : TimingProfile) : String :=
  "tp(" ++ toString t.oneHigh.toNat ++ "," ++ toString t.oneLow.toNat ++ "," ++
    toString t.zeroHigh.toNat ++ "," ++ toString t.zeroLow.toNat ++ ")"

/-- "The blocking bit is the word `wait` (1) or `nowait` (0)." -/
def waitText (b : Bool) : String := if b then "wait" else "nowait"

/-- "A mode is one of the names ... or a number." -/
def modeText (m : BitVec 8) : String :=
  match m.toNat with
  | 0 => "Chained"
  | 1 => "AllReversed"
  | 2 => "EvenReversed"
  | 3 => "OddReversed"
  | n => toString n

/-- The text of a command in the notation of 30_encoding.md R104 (one space after the mnemonic). A
malformed `CB_SETALL` is written in the explicit-count form. -/
def Instr.text : Instr → String
  | .peEncode c t => "PE_ENCODE " ++ c.text ++ ", " ++ t.text
  | .cbNew n t => "CB_NEW " ++ toString n.toNat ++ ", " ++ t.text
  | .cbSetColor i c => "CB_SETCOLOR " ++ toString i.toNat ++ ", " ++ c.text
  | .cbSetAll n cs bad =>
      "CB_SETALL " ++ (if bad then "count=" ++ toString n.toNat ++ ", " else "") ++
        "[" ++ ", ".intercalate (cs.map Color.text) ++ "]"
  | .cbShiftR a l k =>
      "CB_SHIFTR " ++ toString a.toNat ++ ", " ++ toString l.toNat ++ ", " ++ toString k.toNat
  | .cbShiftL a l k =>
      "CB_SHIFTL " ++ toString a.toNat ++ ", " ++ toString l.toNat ++ ", " ++ toString k.toNat
  | .cbSend b => "CB_SEND " ++ waitText b
  | .cbTurnOff b => "CB_TURNOFF " ++ waitText b
  | .cbRelease => "CB_RELEASE"
  | .gmIndex x y wd ht m =>
      "GM_INDEX " ++ toString x.toNat ++ ", " ++ toString y.toNat ++ ", " ++ toString wd.toNat ++ ", " ++
        toString ht.toNat ++ ", " ++ modeText m
  | .gmShift m rc wd k =>
      "GM_SHIFT " ++ modeText m ++ ", " ++ toString rc.toNat ++ ", " ++ toString wd.toNat ++ ", " ++
        toString k.toNat
  | .dispNew wd ht m t =>
      "DISP_NEW " ++ toString wd.toNat ++ ", " ++ toString ht.toNat ++ ", " ++ modeText m ++ ", " ++ t.text
  | .dispSetPixel x y c =>
      "DISP_SETPIXEL " ++ toString x.toNat ++ ", " ++ toString y.toNat ++ ", " ++ c.text
  | .dispRender => "DISP_RENDER"
  | .dispShiftR k b => "DISP_SHIFTR " ++ toString k.toNat ++ ", " ++ waitText b

end Sys2Proof
end

