-- ==== Sys2Proof/Machine/State.lean ====
section
/-! DEFINITION. The state: the core's registers and arrays (10_state.md R20), the ports
(10_state.md R36, R38; 60_exceptions.md R200), and the environment the step reads (00_scope.md R12,
R13). Plain data throughout. Field names are the spec's names in lower case. -/

namespace Sys2Proof.Machine

/-- `LIFE`, two bits (10_state.md R21), held by name (log 13). -/
inductive Life where
  | empty | cbLive | dispLive | released
  deriving DecidableEq, Repr

/-- The two-bit value of `LIFE` (10_state.md R20: 0 EMPTY, 1 CB_LIVE, 2 DISP_LIVE, 3 RELEASED). -/
def Life.code : Life → BitVec 2
  | .empty => 0
  | .cbLive => 1
  | .dispLive => 2
  | .released => 3

/-- The status codes (30_encoding.md R99; 60_exceptions.md R185, R186). -/
inductive Status where
  | ok | indexOutOfRange | sizeMismatch | invalidArgument | configurationError | lifecycleError
  | illegalCommand
  deriving DecidableEq, Repr

/-- The four recognized wiring modes (10_state.md R25). -/
inductive WiringMode where
  | chained | allReversed | evenReversed | oddReversed
  deriving DecidableEq, Repr

/-- Direction of a rotation: Right is toward the higher strip index (41_command_buffer.md R128, R129). -/
inductive Direction where
  | right | left
  deriving DecidableEq, Repr

/-- One strip-space shift operation of `ToStripShift` (42_grid_mapper.md R154). -/
structure ShiftOp where
  start     : Nat
  length    : Nat
  direction : Direction
  steps     : Nat
  deriving DecidableEq, Repr

/-- `DEC`, the decoder phase (10_state.md R30): `idle`, or `payload count got colors malformed` where
the header of a `CB_SETALL` has been taken, `got` of its `count` payload words have arrived, and
`colors`, `malformed` are the colour list and the error mark of 30_encoding.md R96. -/
inductive Dec where
  | idle
  | payload (count : BitVec 16) (got : Nat) (colors : List Color) (malformed : Bool)
  deriving DecidableEq, Repr

/-- The bytes of `BUF` (20_memory.md R50, R51): pairs of a byte offset and its byte, offsets strictly
rising (log 15). An offset that is not listed does not exist (10_state.md R36), so no entry can equal what an
unlisted offset reads as (log 3). -/
abbrev Memory := List Host.Cell

/-- A call of the core on the transmitter port (60_exceptions.md R200, R201, R203). -/
inductive TxCall where
  /-- `TxSend(wait)`, with the byte sequence handed over: the whole of BUF. -/
  | send (wait : Bool) (bytes : List Byte)
  /-- `TxRelease()`. -/
  | release
  deriving DecidableEq, Repr

/-- One entry of `TXQ` (10_state.md R38): a transmission in flight. `bytes` is BUF at the call (the
`B0` of 20_memory.md R61). The three marks say why what it delivers may differ from `bytes`. -/
structure Transmission where
  serial     : Nat
  bytes      : List Byte
  /-- a command has written BUF since the call (70_reset_and_hazards.md R230; U2) -/
  mutated    : Bool
  /-- another send was called while it was in flight, or it was called while another was in flight
  (R231; U5) -/
  overlapped : Bool
  /-- a release or a reset came while it was in flight (R232, R221; U6) -/
  cut        : Bool
  deriving DecidableEq, Repr

/-- What a completed transmission delivered to the strip (60_exceptions.md R202). -/
structure Delivery where
  serial : Nat
  bytes  : List Byte
  deriving DecidableEq, Repr

/-- How the transmitter answers one call: it returns, the transmissions listed by serial number having
completed in that order while the call was outstanding, or it never returns
(60_exceptions.md R201, R205; 70_reset_and_hazards.md R233). Log 6. -/
inductive TxAnswer where
  | returns (completed : List Nat)
  | never
  deriving DecidableEq, Repr

/-- Which agent moves next (00_scope.md R12). Log 5. -/
inductive Move where
  /-- The two handshake ports: the host takes a response word, or the core accepts a command word. -/
  | turn
  /-- The transmitter completes the transmission with this serial number (60_exceptions.md R202). -/
  | complete (serial : Nat)
  /-- The reset input is asserted (70_reset_and_hazards.md R220, R221). -/
  | reset
  /-- The host offers one more command word, after those it has offered (30_encoding.md R80). -/
  | offer (word : Word)
  /-- The host sets its ready line of the response port (70_reset_and_hazards.md R236). -/
  | setReady (ready : Bool)
  deriving DecidableEq, Repr

/-- The whole machine. -/
structure State where
  /-- the open parameters of the hardware (00_scope.md R7); no step writes them -/
  params   : Params
  /-- `LIFE` (10_state.md R21) -/
  life     : Life
  /-- `N`, the pixel count (10_state.md R22) -/
  n        : BitVec 16
  /-- `TP`, the timing profile (10_state.md R23) -/
  tp       : TimingProfile
  /-- `W`, the grid width (10_state.md R24) -/
  w        : BitVec 8
  /-- `H`, the grid height (10_state.md R24) -/
  h        : BitVec 8
  /-- `MODE`, the wiring mode as stored (10_state.md R25) -/
  mode     : BitVec 8
  /-- `BUF` (10_state.md R28) -/
  buf      : Memory
  /-- `PIX` (10_state.md R29) -/
  pix      : List Color
  /-- `GRID` (10_state.md R31) -/
  grid     : List Color
  /-- `DEC` (10_state.md R30) -/
  dec      : Dec
  /-- the response port: words offered and not yet taken, oldest first (30_encoding.md R98) -/
  rsp      : List Word
  /-- the transmitter port: the call outstanding (60_exceptions.md R200) -/
  txCall   : Option TxCall
  /-- the command port: words the host has offered and the core has not accepted (30_encoding.md R80) -/
  cmd      : List Word
  /-- the host's ready line of the response port (70_reset_and_hazards.md R236) -/
  rspReady : Bool
  /-- the response words the host has taken, oldest first -/
  taken    : List Word
  /-- `TXQ`, the transmissions in flight, oldest first (10_state.md R38) -/
  txq      : List Transmission
  /-- how many `TxSend` calls have been made: the serial number of the next one -/
  txSerial : Nat
  /-- how the transmitter answers the next calls; an empty list stands for calls that return -/
  txPlan   : List TxAnswer
  /-- every call presented on the transmitter port, oldest first -/
  txCalls  : List TxCall
  /-- what the strip has received, in order of completion -/
  strip    : List Delivery
  /-- which agent moves next; an empty list stands for `turn` -/
  schedule : List Move
  deriving DecidableEq, Repr

/-- Why the machine would stop with a fault. No command makes any of these accesses
(60_exceptions.md R187: "no command reads or writes outside BUF, PIX or GRID"); each is raised only in
a state whose arrays do not have the lengths of 10_state.md R32, which no run reaches (log 19). -/
inductive Fault where
  /-- An access to a byte offset of BUF that does not exist. Raised by `readBuf` and `writeBuf`. Safe. -/
  | bufOutOfBounds
  /-- An access to an element of PIX that does not exist. Raised by `writeSlices` and `rangeRotate`.
  Safe. -/
  | pixOutOfBounds
  /-- An access to an element of GRID that does not exist. Raised by `writeGrid` and `permuteGrid`.
  Safe. -/
  | gridOutOfBounds
  deriving DecidableEq, Repr

/-- Why the machine would refuse an instruction. -/
inductive Refusal where
  /-- The instruction has no meaning in the model. Raised by no arm: all fifteen are modelled. Safe. -/
  | notModelled (mnemonic : String)
  deriving DecidableEq, Repr

/-- The machine right after reset (10_state.md R36): EMPTY, IDLE, no response word pending, no call
outstanding, the arrays not existing, TXQ empty (R38). The registers R36 leaves unspecified hold zero
(DESIGN CHOICE, log 2); the parameters are the uninterpreted `Config.params` (log 1); the environment's
lists are empty (DESIGN CHOICE, logs 5, 6, 7, 12, 16). -/
def State.reset : State where
  params   := Config.params
  life     := .empty
  n        := 0
  tp       := ⟨0, 0, 0, 0⟩
  w        := 0
  h        := 0
  mode     := 0
  buf      := []
  pix      := []
  grid     := []
  dec      := .idle
  rsp      := []
  txCall   := none
  cmd      := []
  rspReady := true
  taken    := []
  txq      := []
  txSerial := 0
  txPlan   := []
  txCalls  := []
  strip    := []
  schedule := []

end Sys2Proof.Machine
end

