-- ==== Sys2Proof/Machine/Operands.lean ====
section
/-! DEFINITION. How operands are turned into addresses, wiring modes, strip indexes and pulse bytes: the
pure functions of 20_memory.md R52, 40_pulse_encoder.md R112, R113, 42_grid_mapper.md R151, R154. -/

namespace Sys2Proof.Machine

/-! ### The PulseEncoder function -/

/-- `bitseq(c)`, in transmission order G7..G0, R7..R0, B7..B0 (40_pulse_encoder.md R112). -/
def bitseq (c : Color) : List Bool :=
  (List.range 24).map fun k =>
    if k < 8 then c.g.getLsbD (7 - k)
    else if k < 16 then c.r.getLsbD (15 - k)
    else c.b.getLsbD (23 - k)

/-- `pulse(b, t) = [highDuration, HM, lowDuration, LM]` (40_pulse_encoder.md R113). -/
def pulse (p : Params) (t : TimingProfile) (bit : Bool) : List Byte :=
  if bit then [t.oneHigh, p.highMarker, t.oneLow, p.lowMarker]
  else [t.zeroHigh, p.highMarker, t.zeroLow, p.lowMarker]

/-- `Encode(c, t)`: the pulse commands of the 24 bits in order, 96 bytes (40_pulse_encoder.md R113). -/
def encodeColor (p : Params) (c : Color) (t : TimingProfile) : List Byte :=
  (bitseq c).flatMap (pulse p t)

/-- The off pattern `Encode(BLACK, t)` (40_pulse_encoder.md R118). -/
def offPattern (p : Params) (t : TimingProfile) : List Byte := encodeColor p Color.black t

/-- `decode(block, t)[k]` (40_pulse_encoder.md R115): one, zero, or neither. It is defined where the
one-bit pair differs from the zero-bit pair. -/
def decodePulse (t : TimingProfile) (block : List Byte) (k : Nat) : Option Bool :=
  match block[4 * k]?, block[4 * k + 2]? with
  | some hi, some lo =>
      if hi = t.oneHigh ∧ lo = t.oneLow then some true
      else if hi = t.zeroHigh ∧ lo = t.zeroLow then some false
      else none
  | _, _ => none

/-! ### Addresses -/

/-- `slice(i) = HB + i*96` (20_memory.md R52). -/
def State.slice (s : State) (i : Nat) : Nat := s.params.headerBytes + i * 96

/-- `length(BUF) = N*96 + HB` (10_state.md R28). -/
def State.bufLength (s : State) : Nat := s.n.toNat * 96 + s.params.headerBytes

/-! ### The GridMapper functions -/

/-- The wiring mode a mode byte names, if it is recognized (10_state.md R25: 0..3). -/
def WiringMode.ofByte (m : BitVec 8) : Option WiringMode :=
  match m.toNat with
  | 0 => some .chained
  | 1 => some .allReversed
  | 2 => some .evenReversed
  | 3 => some .oddReversed
  | _ => none

/-- `reversed(mode, y)` (42_grid_mapper.md R151). -/
def reversed : WiringMode → Nat → Bool
  | .chained, _ => false
  | .allReversed, _ => true
  | .evenReversed, y => y % 2 == 0
  | .oddReversed, y => y % 2 == 1

/-- `ToStripIndex(x, y, width, height, mode)`, defined for `x < width` (42_grid_mapper.md R151). The
height does not enter the formula. -/
def toStripIndex (x y width : Nat) (mode : WiringMode) : Nat :=
  if reversed mode y then (width - 1 - x) + y * width else x + y * width

/-- The direction in which row `y` shifts (42_grid_mapper.md R154): Left where the row is mirrored. -/
def rowDirection (mode : WiringMode) (y : Nat) : Direction :=
  if reversed mode y then .left else .right

/-- `ToStripShift(mode, rowCount, width, steps)`: one operation per row, rows in ascending order
(42_grid_mapper.md R154). -/
def toStripShift (mode : WiringMode) (rowCount width steps : Nat) : List ShiftOp :=
  (List.range rowCount).map fun y => ⟨y * width, width, rowDirection mode y, steps⟩

/-! ### Rotation of a sequence -/

/-- A sequence with its last `steps` elements moved to the front: content moves toward the higher index
(20_memory.md R55 with `dir = Right`, log 17). -/
def rotateRight {α : Type} (xs : List α) (steps : Nat) : List α :=
  xs.drop (xs.length - steps) ++ xs.take (xs.length - steps)

/-- A sequence with its first `steps` elements moved to the back: content moves toward the lower index
(20_memory.md R55 with `dir = Left`, log 17). -/
def rotateLeft {α : Type} (xs : List α) (steps : Nat) : List α :=
  xs.drop steps ++ xs.take steps

/-- The rotation in a direction. -/
def rotate {α : Type} (dir : Direction) (xs : List α) (steps : Nat) : List α :=
  match dir with
  | .right => rotateRight xs steps
  | .left => rotateLeft xs steps

end Sys2Proof.Machine
end

