-- ==== Sys2Proof/Machine/Flags.lean ====
section
/-! DEFINITION. What a command reports. The block has no flags (10_state.md R34): a command's outcome is
its response, whose words are built here (30_encoding.md R98 to R101), and the lifecycle tests
(60_exceptions.md R195) and bounds tests (R187) that choose it. -/

namespace Sys2Proof.Machine

/-- The status numbers (30_encoding.md R99). -/
def Status.code : Status → Byte
  | .ok => 0
  | .indexOutOfRange => 1
  | .sizeMismatch => 2
  | .invalidArgument => 3
  | .configurationError => 4
  | .lifecycleError => 5
  | .illegalCommand => 6

/-- Status word: `Rs[63] = 1`; `Rs[62:8] = 0`; `Rs[7:0] = status` (30_encoding.md R99). -/
def statusWord (e : Status) : Word := place 1#1 63 ||| place e.code 0

/-- Data word: `Rs[63] = 0`; `Rs[62:56] = kind`; payload in `Rs[55:0]` (30_encoding.md R100). Each payload
below sets bits of `[55:0]` only. -/
def dataWord (kind : BitVec 7) (payload : Word) : Word := place kind 56 ||| payload

/-- Data word of kind 0x01 `INDEX` (30_encoding.md R100). -/
def indexWord (index : Nat) : Word := dataWord 0x01 (place (BitVec.ofNat 16 index) 0)

/-- Data word of kind 0x02 `COLOR` (30_encoding.md R100). -/
def colorDataWord (c : Color) : Word := dataWord 0x02 (colorWord c)

/-- Data word of kind 0x03 `PULSE`: the four bytes of one pulse command, byte 0 highest
(30_encoding.md R100). -/
def pulseWord (b0 b1 b2 b3 : Byte) : Word :=
  dataWord 0x03 (place b0 24 ||| place b1 16 ||| place b2 8 ||| place b3 0)

/-- The direction bit of a `SHIFTOP` word: 0 Right, 1 Left (30_encoding.md R100). -/
def Direction.bit : Direction → BitVec 1
  | .right => 0
  | .left => 1

/-- Data word of kind 0x04 `SHIFTOP` (30_encoding.md R100). -/
def shiftOpWord (op : ShiftOp) : Word :=
  dataWord 0x04 (place (BitVec.ofNat 16 op.start) 40 ||| place (BitVec.ofNat 16 op.length) 24 |||
    place (BitVec.ofNat 16 op.steps) 8 ||| place op.direction.bit 0)

/-- One `PULSE` word per four bytes, `e[4k] .. e[4k+3]` (40_pulse_encoder.md R114). -/
def pulseWords : List Byte → List Word
  | b0 :: b1 :: b2 :: b3 :: rest => pulseWord b0 b1 b2 b3 :: pulseWords rest
  | _ => []

/-- `LIFE in {CB_LIVE, DISP_LIVE}` (60_exceptions.md R195). -/
def Life.live : Life → Bool
  | .cbLive => true
  | .dispLive => true
  | .empty => false
  | .released => false

/-- The validation of `CB_SHIFTR` and `CB_SHIFTL` after the lifecycle test, in its order: the range
(computed without wrap-around), then the amount (41_command_buffer.md R127). -/
def shiftError (n start length steps : BitVec 16) : Option Status :=
  if n.toNat < start.toNat + length.toNat then some .indexOutOfRange
  else if length.toNat < steps.toNat then some .invalidArgument
  else none

end Sys2Proof.Machine
end

