-- ==== Sys2Proof/Machine/Ops.lean ====
section
/-! DEFINITION. The named operations over the arrays (20_memory.md R55, R56; 00_scope.md R10), the response
(30_encoding.md R98) and `raise`, the block's one way of taking an exception (60_exceptions.md R190). -/

namespace Sys2Proof.Machine

/-! ### Named updates of the state -/

/-- `LIFE <- l`. -/
def State.setLife (s : State) (l : Life) : State := { s with life := l }

/-- `N <- n`, `TP <- t` (10_state.md R22, R23). -/
def State.setSession (s : State) (n : BitVec 16) (t : TimingProfile) : State := { s with n := n, tp := t }

/-- `W <- w`, `H <- h`, `MODE <- m` (10_state.md R24, R25). -/
def State.setGeometry (s : State) (w h m : BitVec 8) : State := { s with w := w, h := h, mode := m }

/-- BUF as a whole. -/
def State.setBuf (s : State) (m : Memory) : State := { s with buf := m }

/-- PIX as a whole. -/
def State.setPix (s : State) (p : List Color) : State := { s with pix := p }

/-- GRID as a whole. -/
def State.setGrid (s : State) (g : List Color) : State := { s with grid := g }

/-! ### The bytes of BUF -/

/-- The canonical form: byte offsets strictly rising. -/
abbrev Memory.wf (m : Memory) : Prop := m.Pairwise fun c d => c.1 < d.1

/-- The byte at an offset, none where the offset does not exist. -/
def Memory.read (m : Memory) (a : Nat) : Option Byte := m.lookup a

/-- `MemRead(a, n)` (00_scope.md R10): the bytes that exist among offsets `a .. a+n-1`, lowest first. -/
def Memory.readBytes (m : Memory) (a n : Nat) : List Byte :=
  (m.filter fun c => decide (a ≤ c.1) && decide (c.1 < a + n)).map Prod.snd

/-- The cells of a byte sequence laid at offset `a`. -/
def Memory.cellsAt (a : Nat) : List Byte → Memory
  | [] => []
  | b :: bs => (a, b) :: Memory.cellsAt (a + 1) bs

/-- `MemWrite(a, n, v)` (00_scope.md R10) with `n` the length of `v`. -/
def Memory.writeBytes (m : Memory) (a : Nat) (v : List Byte) : Memory :=
  (m.filter fun c => decide (c.1 < a)) ++ Memory.cellsAt a v ++
    (m.filter fun c => decide (a + v.length ≤ c.1))

/-- "new byte array of length L" (41_command_buffer.md R121). Its bytes are written before anything can
read them; zero until then (log 14). -/
def Memory.newArray (len : Nat) : Memory := Memory.cellsAt 0 (List.replicate len 0)

/-- Reading `n` bytes of BUF at `a`; a fault where one of them does not exist (log 19). -/
def State.readBuf (s : State) (a n : Nat) : Except Fault (List Byte) :=
  if (s.buf.readBytes a n).length = n then .ok (s.buf.readBytes a n) else .error .bufOutOfBounds

/-- Writing a byte sequence into BUF at `a`; a fault where one of the bytes does not exist (log 19). -/
def State.writeBuf (s : State) (a : Nat) (v : List Byte) : Except Fault State :=
  if (s.buf.readBytes a v.length).length = v.length then .ok (s.setBuf (s.buf.writeBytes a v))
  else .error .bufOutOfBounds

/-! ### Colour arrays -/

/-- A sequence with the elements from `start` on replaced by `ys`. -/
def splice {α : Type} (xs : List α) (start : Nat) (ys : List α) : List α :=
  xs.take start ++ ys ++ xs.drop (start + ys.length)

/-- Writing elements of PIX from `start` on; a fault where one of them does not exist (log 19). -/
def State.writePix (s : State) (start : Nat) (cs : List Color) : Except Fault State :=
  if start + cs.length ≤ s.pix.length then .ok (s.setPix (splice s.pix start cs))
  else .error .pixOutOfBounds

/-- `GRID[a] <- c` (43_display.md R168); a fault where the cell does not exist (log 19). -/
def State.writeGrid (s : State) (a : Nat) (c : Color) : Except Fault State :=
  if a < s.grid.length then .ok (s.setGrid (s.grid.set a c)) else .error .gridOutOfBounds

/-- The transmissions in flight race a mutation of BUF (70_reset_and_hazards.md R230). -/
def Transmission.touch (t : Transmission) : Transmission := { t with mutated := true }

/-- A write of BUF races every transmission in flight (20_memory.md R61 (b); 70_reset_and_hazards.md R230;
log 9). The core's own state is not affected. -/
def State.touchTx (s : State) : State := { s with txq := s.txq.map Transmission.touch }

/-- The 96-byte blocks of a sequence of colours under the session's profile. -/
def State.blocks (s : State) (cs : List Color) : List Byte :=
  cs.flatMap fun c => encodeColor s.params c s.tp

/-- `SliceWrite` for the pixels `start, start+1, ...` and the colours `cs` in order: each pixel's colour
and its 96-byte block (20_memory.md R55). With no colour nothing is written and no transmission is raced
(R61 (b)). -/
def State.writeSlices (s : State) (start : Nat) (cs : List Color) : Except Fault State :=
  if cs = [] then .ok s
  else
    match s.touchTx.writePix start cs with
    | .error f => .error f
    | .ok t => t.writeBuf (t.slice start) (t.blocks cs)

/-- `SliceWrite(i, c)` (20_memory.md R55). -/
def State.sliceWrite (s : State) (i : Nat) (c : Color) : Except Fault State := s.writeSlices i [c]

/-- `RangeRotate(start, length, steps, dir)` (20_memory.md R55): pixels and their blocks move by whole
blocks, no colour is encoded. With `length = 0` it returns: nothing is written and no transmission is
raced (R61 (b)). -/
def State.rangeRotate (s : State) (start length steps : Nat) (dir : Direction) : Except Fault State :=
  if length = 0 then .ok s
  else
    let t := s.touchTx
    match t.writePix start (rotate dir ((t.pix.drop start).take length) steps),
        t.readBuf (t.slice start) (96 * length) with
    | .ok u, .ok oldB => u.writeBuf (u.slice start) (rotate dir oldB (96 * steps))
    | .error f, _ => .error f
    | _, .error f => .error f

/-- Applying shift operations one after the other (43_display.md R172). -/
def State.rotateRows (s : State) : List ShiftOp → Except Fault State
  | [] => .ok s
  | op :: ops =>
      match s.rangeRotate op.start op.length op.steps op.direction with
      | .error f => .error f
      | .ok t => t.rotateRows ops

/-- `Permute(GRID, W, H, MODE)` (43_display.md R169), in the form the rule says is the same array,
`P[x + y*W] = GRID[ToStripIndex(x, y, W, H, MODE)]` (log 17). -/
def permute (grid : List Color) (width height : Nat) (mode : WiringMode) : List Color :=
  (List.range (width * height)).map fun p =>
    grid.getD (toStripIndex (p % width) (p / width) width mode) Color.black

/-- `Permute` of the machine's grid; a fault where a cell of it does not exist (log 19). -/
def State.permuteGrid (s : State) (mode : WiringMode) : Except Fault (List Color) :=
  if s.grid.length = s.w.toNat * s.h.toNat then .ok (permute s.grid s.w.toNat s.h.toNat mode)
  else .error .gridOutOfBounds

/-- What construction does to N, TP, BUF and PIX (41_command_buffer.md R121): a new buffer with the
header at its start, a new pixel array of black, and every slice the block of its pixel, the off
pattern. The arrays are made here with the lengths the writes need, so no write can miss them. -/
def State.construct (s : State) (n : BitVec 16) (t : TimingProfile) : State :=
  let s1 := ((s.setSession n t).setPix (List.replicate n.toNat Color.black)).touchTx
  s1.setBuf (((Memory.newArray s1.bufLength).writeBytes 0 s1.params.header).writeBytes (s1.slice 0)
    (s1.blocks s1.pix))

/-! ### The response and the errors -/

/-- A command's response: its data words, then one status word (30_encoding.md R98). -/
def State.respond (s : State) (data : List Word) (e : Status) : State :=
  { s with rsp := s.rsp ++ data ++ [statusWord e] }

/-- TAKING AN EXCEPTION: `raise E` (60_exceptions.md R190). The command ends with no change to any state
and the single status word of E as its response; nothing is saved, no mode changes, nothing is called
(R193). There is no trap return (R194). -/
def raise (s : State) (e : Status) : Host.Outcome State Fault Refusal := .next (s.respond [] e)

/-- `done`: the command ends with its data words and status OK (00_scope.md R10). -/
def done (s : State) (data : List Word) : Host.Outcome State Fault Refusal := .next (s.respond data .ok)

/-- A command whose array operations are finished ends with status OK and no data word. -/
def commit (r : Except Fault State) : Host.Outcome State Fault Refusal :=
  match r with
  | .ok t => done t []
  | .error f => .fault f

end Sys2Proof.Machine
end

