-- ==== Sys2Proof/Machine/Transmitter.lean ====
section
/-! DEFINITION. The transmitter port (60_exceptions.md R200 to R205), the transmissions in flight and what
they deliver (20_memory.md R61; 93_implementation_defined.md U2, U5, U6), and the reset input
(70_reset_and_hazards.md R220, R221). -/

namespace Sys2Proof.Machine

/-- The transmitter has returned: no call is outstanding (60_exceptions.md R200). -/
def State.returned (s : State) : State := { s with txCall := none }

/-- The plan of the next answers. -/
def State.setPlan (s : State) (p : List TxAnswer) : State := { s with txPlan := p }

/-- `count` bytes of the free value for transmission `serial`. -/
def strayBytes (serial count : Nat) : List Byte := (List.range count).map (Config.strayByte serial)

/-- What a transmission delivers (20_memory.md R61). Overlapped by another send or cut by a release or a
reset: any bytes, of any number (U5, U6). Raced by a mutation, the transmitter not copying on send: any
bytes, as many as were handed over (U2). Otherwise exactly the bytes handed over. FREE VALUES, log 8;
the order of the tests is log 10. -/
def Transmission.delivered (p : Params) (t : Transmission) : List Byte :=
  if t.overlapped || t.cut then strayBytes t.serial (Config.strayLength t.serial)
  else if t.mutated && !p.txCopiesOnSend then strayBytes t.serial t.bytes.length
  else t.bytes

/-- The transmission with this serial number completes: it leaves TXQ and has delivered its bytes
(60_exceptions.md R202). Nothing happens where no such transmission is in flight (log 5). A completion lands between commands or
while a call is outstanding, not between the writes and the call of one command (log 22). -/
def State.complete (s : State) (serial : Nat) : State :=
  match s.txq.find? fun t => t.serial == serial with
  | none => s
  | some t =>
      { s with
        txq := s.txq.filter fun u => !(u.serial == serial)
        strip := s.strip ++ [⟨serial, t.delivered s.params⟩] }

/-- Transmissions complete one after the other. -/
def State.completeAll (s : State) : List Nat → State
  | [] => s
  | k :: ks => (s.complete k).completeAll ks

/-- Another send was called while this transmission was in flight (70_reset_and_hazards.md R231). -/
def Transmission.overlap (t : Transmission) : Transmission := { t with overlapped := true }

/-- A release or a reset came while this transmission was in flight (70_reset_and_hazards.md R221, R232). -/
def Transmission.cutShort (t : Transmission) : Transmission := { t with cut := true }

/-- Every transmission in flight is cut. -/
def State.cutAll (s : State) : State := { s with txq := s.txq.map Transmission.cutShort }

/-- The core presents a call: it is outstanding until the transmitter returns (60_exceptions.md R200). -/
def State.present (s : State) (call : TxCall) : State :=
  { s with txCall := some call, txCalls := s.txCalls ++ [call] }

/-- The transmitter's side of the call outstanding (60_exceptions.md R201, R205; log 6): it returns, the
transmissions of `own` (that of a blocking send) having completed, or it never returns and the call
stays outstanding (70_reset_and_hazards.md R233). -/
def State.answer (s : State) (own : List Nat) : State :=
  match s.txPlan with
  | [] => (s.completeAll own).returned
  | .returns ks :: rest => (((s.setPlan rest).completeAll ks).completeAll own).returned
  | .never :: rest => s.setPlan rest

/-- A new transmission of the bytes `b` joins TXQ; where others are in flight all of them overlap
(60_exceptions.md R201; 70_reset_and_hazards.md R231). -/
def State.startTransmission (s : State) (b : List Byte) : State :=
  { s with
    txq := s.txq.map Transmission.overlap ++ [⟨s.txSerial, b, false, !s.txq.isEmpty, false⟩]
    txSerial := s.txSerial + 1 }

/-- `TxSend(wait)` (60_exceptions.md R201): the whole buffer is handed over, an entry joins TXQ, and the
transmitter answers; a blocking call returns only after its own transmission has completed. -/
def State.txSend (s : State) (wait : Bool) : Except Fault State :=
  match s.readBuf 0 s.bufLength with
  | .error f => .error f
  | .ok b =>
      .ok (((s.startTransmission b).present (.send wait b)).answer (if wait then [s.txSerial] else []))

/-- `TxRelease()` (60_exceptions.md R203). What transmissions in flight then deliver is unspecified
(70_reset_and_hazards.md R232; U6). -/
def State.txRelease (s : State) : State :=
  (s.cutAll.present .release).answer []

/-- The end of a command whose last act was a transmitter call: its status word appears only after the
call has returned (41_command_buffer.md R132; 70_reset_and_hazards.md R233). -/
def afterCall (s : State) : Host.Outcome State Fault Refusal :=
  match s.txCall with
  | none => done s []
  | some _ => .next s

/-- `TxSend(wait)` and the end of the command. The acceptance of the command, its writes and this call are
one step, so between them comes no reset (DESIGN CHOICE, log 21) and no completion of a transmission in
flight, which 60_exceptions.md R202 allows there: with CB_TURNOFF and DISP_SHIFTR a transmission in flight at
the writes is still in flight at the call (DESIGN CHOICE, log 22). -/
def sendAndFinish (s : State) (wait : Bool) : Host.Outcome State Fault Refusal :=
  match s.txSend wait with
  | .error f => .fault f
  | .ok t => afterCall t

/-- The reset input (70_reset_and_hazards.md R220, R221; 10_state.md R36): the core is as after
`State.reset`, a command in progress is abandoned without a response, no `TxRelease` is issued, and a
transmission in flight goes on with nothing known of what it delivers (U6). What belongs to the host and
the transmitter stays (log 4). A command whose last word has been accepted has made its transmitter call
before the reset comes: 70_reset_and_hazards.md R221 leaves that open (DESIGN CHOICE, log 21). -/
def State.applyReset (s : State) : State :=
  { State.reset with
    params := s.params
    cmd := s.cmd
    rspReady := s.rspReady
    taken := s.taken
    txq := s.txq.map Transmission.cutShort
    txSerial := s.txSerial
    txPlan := s.txPlan
    txCalls := s.txCalls
    strip := s.strip
    schedule := s.schedule }

end Sys2Proof.Machine
end

