-- ==== Sys2Proof/Machine/CommandBuffer.lean ====
section
/-! DEFINITION. The CommandBuffer commands (41_command_buffer.md). -/

namespace Sys2Proof.Machine

/-- `CB_NEW` (41_command_buffer.md R121). -/
def execCbNew (pixelCount : BitVec 16) (profile : TimingProfile) (s : State) :
    Host.Outcome State Fault Refusal :=
  match s.life with
  | .empty => done ((s.construct pixelCount profile).setLife .cbLive) []
  | .cbLive | .dispLive | .released => raise s .lifecycleError

/-- `CB_SETCOLOR` (41_command_buffer.md R123). -/
def execCbSetColor (index : BitVec 16) (color : Color) (s : State) :
    Host.Outcome State Fault Refusal :=
  if s.life.live = false then raise s .lifecycleError
  else if s.n.toNat ≤ index.toNat then raise s .indexOutOfRange
  else commit (s.sliceWrite index.toNat color)

/-- `CB_SETALL` (41_command_buffer.md R125), once its last payload word has been accepted. -/
def execCbSetAll (count : BitVec 16) (colors : List Color) (malformed : Bool) (s : State) :
    Host.Outcome State Fault Refusal :=
  if malformed then raise s .illegalCommand
  else if s.life.live = false then raise s .lifecycleError
  else if count.toNat ≠ s.n.toNat then raise s .sizeMismatch
  else commit (s.writeSlices 0 colors)

/-- `CB_SHIFTR` (41_command_buffer.md R127, R128). -/
def execCbShiftR (start length steps : BitVec 16) (s : State) : Host.Outcome State Fault Refusal :=
  if s.life.live = false then raise s .lifecycleError
  else
    match shiftError s.n start length steps with
    | some e => raise s e
    | none => commit (s.rangeRotate start.toNat length.toNat steps.toNat .right)

/-- `CB_SHIFTL` (41_command_buffer.md R127, R129). -/
def execCbShiftL (start length steps : BitVec 16) (s : State) : Host.Outcome State Fault Refusal :=
  if s.life.live = false then raise s .lifecycleError
  else
    match shiftError s.n start length steps with
    | some e => raise s e
    | none => commit (s.rangeRotate start.toNat length.toNat steps.toNat .left)

/-- `CB_SEND` (41_command_buffer.md R132). -/
def execCbSend (blocking : Bool) (s : State) : Host.Outcome State Fault Refusal :=
  if s.life.live = false then raise s .lifecycleError
  else sendAndFinish s blocking

/-- `CB_TURNOFF` (41_command_buffer.md R134). -/
def execCbTurnOff (blocking : Bool) (s : State) : Host.Outcome State Fault Refusal :=
  if s.life.live = false then raise s .lifecycleError
  else
    match s.writeSlices 0 (List.replicate s.n.toNat Color.black) with
    | .error f => .fault f
    | .ok t => sendAndFinish t blocking

/-- `CB_RELEASE` (41_command_buffer.md R136): `LIFE` becomes RELEASED when the call has returned. -/
def execCbRelease (s : State) : Host.Outcome State Fault Refusal :=
  match s.life with
  | .empty => raise s .lifecycleError
  | .released => done s []
  | .cbLive | .dispLive =>
      match s.txRelease.txCall with
      | none => done (s.txRelease.setLife .released) []
      | some _ => .next s.txRelease

end Sys2Proof.Machine
end

