-- ==== Sys2Proof/Machine/Display.lean ====
section
/-! DEFINITION. The Display commands (43_display.md). -/

namespace Sys2Proof.Machine

/-- `DISP_NEW` (43_display.md R166): an unrecognized mode is stored, not refused. -/
def execDispNew (width height mode : BitVec 8) (profile : TimingProfile) (s : State) :
    Host.Outcome State Fault Refusal :=
  match s.life with
  | .empty =>
      let n : BitVec 16 := BitVec.ofNat 16 (width.toNat * height.toNat)
      done ((((s.setGeometry width height mode).construct n profile).setGrid
        (List.replicate n.toNat Color.black)).setLife .dispLive) []
  | .cbLive | .dispLive | .released => raise s .lifecycleError

/-- `DISP_SETPIXEL` (43_display.md R168): the grid only. -/
def execDispSetPixel (x y : BitVec 8) (color : Color) (s : State) : Host.Outcome State Fault Refusal :=
  if s.life ≠ .dispLive then raise s .lifecycleError
  else if s.w.toNat ≤ x.toNat ∨ s.h.toNat ≤ y.toNat then raise s .indexOutOfRange
  else commit (s.writeGrid (x.toNat + y.toNat * s.w.toNat) color)

/-- `DISP_RENDER` (43_display.md R170): no transmitter call. -/
def execDispRender (s : State) : Host.Outcome State Fault Refusal :=
  if s.life ≠ .dispLive then raise s .lifecycleError
  else
    match WiringMode.ofByte s.mode with
    | none => raise s .configurationError
    | some m =>
        match s.permuteGrid m with
        | .error f => .fault f
        | .ok p =>
            match s.writeSlices 0 p with
            | .error f => .fault f
            | .ok t => done t (p.map colorDataWord)

/-- `DISP_SHIFTR` (43_display.md R172): every check before any row is moved. -/
def execDispShiftR (steps : BitVec 16) (blocking : Bool) (s : State) : Host.Outcome State Fault Refusal :=
  if s.life ≠ .dispLive then raise s .lifecycleError
  else
    match WiringMode.ofByte s.mode with
    | none => raise s .configurationError
    | some m =>
        if 1 ≤ s.h.toNat ∧ s.w.toNat < steps.toNat then raise s .invalidArgument
        else
          match s.rotateRows (toStripShift m s.h.toNat s.w.toNat steps.toNat) with
          | .error f => .fault f
          | .ok t => sendAndFinish t blocking

end Sys2Proof.Machine
end

