-- ==== Sys2Proof/Machine/GridMapper.lean ====
section
/-! DEFINITION. The GridMapper commands (42_grid_mapper.md). -/

namespace Sys2Proof.Machine

/-- `GM_INDEX` (42_grid_mapper.md R152): the mode is checked first, then the coordinates. -/
def execGmIndex (x y width height mode : BitVec 8) (s : State) : Host.Outcome State Fault Refusal :=
  match WiringMode.ofByte mode with
  | none => raise s .configurationError
  | some m =>
      if width.toNat ≤ x.toNat ∨ height.toNat ≤ y.toNat then raise s .indexOutOfRange
      else done s [indexWord (toStripIndex x.toNat y.toNat width.toNat m)]

/-- `GM_SHIFT` (42_grid_mapper.md R155): `steps` is not compared with `width`. -/
def execGmShift (mode rowCount width : BitVec 8) (steps : BitVec 16) (s : State) :
    Host.Outcome State Fault Refusal :=
  match WiringMode.ofByte mode with
  | none => raise s .configurationError
  | some m => done s ((toStripShift m rowCount.toNat width.toNat steps.toNat).map shiftOpWord)

end Sys2Proof.Machine
end

