-- ==== Sys2Proof/Machine/PulseEncoder.lean ====
section
/-! DEFINITION. The PulseEncoder command (40_pulse_encoder.md). -/

namespace Sys2Proof.Machine

/-- `PE_ENCODE` (40_pulse_encoder.md R114): 24 `PULSE` words of its own colour and profile; it reads no
state and writes none. -/
def execPeEncode (color : Color) (profile : TimingProfile) (s : State) :
    Host.Outcome State Fault Refusal :=
  done s (pulseWords (encodeColor s.params color profile))

end Sys2Proof.Machine
end

