-- ==== Sys2Proof/Machine/Dispatch.lean ====
section
/-! DEFINITION. One arm per command (30_encoding.md R84). -/

namespace Sys2Proof.Machine

def exec (i : Instr) (s : State) : Host.Outcome State Fault Refusal :=
  match i with
  | .peEncode color profile => Sys2Proof.Machine.execPeEncode color profile s
  | .cbNew pixelCount profile => Sys2Proof.Machine.execCbNew pixelCount profile s
  | .cbSetColor index color => Sys2Proof.Machine.execCbSetColor index color s
  | .cbSetAll count colors malformed => Sys2Proof.Machine.execCbSetAll count colors malformed s
  | .cbShiftR start length steps => Sys2Proof.Machine.execCbShiftR start length steps s
  | .cbShiftL start length steps => Sys2Proof.Machine.execCbShiftL start length steps s
  | .cbSend blocking => Sys2Proof.Machine.execCbSend blocking s
  | .cbTurnOff blocking => Sys2Proof.Machine.execCbTurnOff blocking s
  | .cbRelease => Sys2Proof.Machine.execCbRelease s
  | .gmIndex x y width height mode => Sys2Proof.Machine.execGmIndex x y width height mode s
  | .gmShift mode rowCount width steps => Sys2Proof.Machine.execGmShift mode rowCount width steps s
  | .dispNew width height mode profile => Sys2Proof.Machine.execDispNew width height mode profile s
  | .dispSetPixel x y color => Sys2Proof.Machine.execDispSetPixel x y color s
  | .dispRender => Sys2Proof.Machine.execDispRender s
  | .dispShiftR steps blocking => Sys2Proof.Machine.execDispShiftR steps blocking s

end Sys2Proof.Machine
end

