-- ==== Sys2Proof/Machine/Sequencer.lean ====
section
/-! DEFINITION. The command port and the decoder phase (30_encoding.md R96, R97, R106), the response port's
handshake (70_reset_and_hazards.md R236), and the moves of the environment. -/

namespace Sys2Proof.Machine

/-- `DEC <- d`. -/
def State.setDec (s : State) (d : Dec) : State := { s with dec := d }

/-- The words offered on the command port. -/
def State.setCmd (s : State) (ws : List Word) : State := { s with cmd := ws }

/-- The moves to come. -/
def State.setSchedule (s : State) (ms : List Move) : State := { s with schedule := ms }

/-- The host takes a response word, `rest` staying pending (30_encoding.md R98). -/
def State.take (s : State) (word : Word) (rest : List Word) : State :=
  { s with rsp := rest, taken := s.taken ++ [word] }

/-- The host sets its ready line. -/
def State.setReady (s : State) (ready : Bool) : State := { s with rspReady := ready }

/-- A command of one word: it executes if the decoder reads a command, otherwise it is an illegal command
(30_encoding.md R86, R96). -/
def runHeader (w : Word) (s : State) : Host.Outcome State Fault Refusal :=
  match decode w [] with
  | .ok i => exec i s
  | .error _ => raise s .illegalCommand

/-- Accepting one word from the command port (30_encoding.md R96). The word that completes a command is
accepted and the command executed, its transmitter call included, in one step: a reset lands before the
word is accepted or after the call is made (DESIGN CHOICE, log 21). -/
def acceptWord (w : Word) (s : State) : Host.Outcome State Fault Refusal :=
  match s.dec with
  | .idle =>
      if payloadCount w = 0 then runHeader w s
      else .next (s.setDec (.payload (BitVec.ofNat 16 (payloadCount w)) 0 [] false))
  | .payload count got colors malformed =>
      let acc := acceptPayload (colors, malformed) w
      if got + 1 = count.toNat then exec (.cbSetAll count acc.1 acc.2) (s.setDec .idle)
      else .next (s.setDec (.payload count (got + 1) acc.1 acc.2))

/-- One turn of the two handshake ports. While response words are pending the host takes one, if it is
ready; the core accepts no command before they are taken (70_reset_and_hazards.md R236, log 7). While a
call is outstanding the core waits (R233). Otherwise the core accepts the next word of the command port,
and waits where there is none (R241). Waiting is a step to the same state (log 5). -/
def turn (s : State) : Host.Outcome State Fault Refusal :=
  match s.rsp with
  | word :: rest =>
      if s.rspReady then .next (s.take word rest) else .next s
  | [] =>
      match s.txCall with
      | some _ => .next s
      | none =>
          match s.cmd with
          | [] => .next s
          | w :: ws => acceptWord w (s.setCmd ws)

/-- One move of the agent the schedule names (00_scope.md R12). -/
def runMove (m : Move) (s : State) : Host.Outcome State Fault Refusal :=
  match m with
  | .turn => turn s
  | .complete serial => .next (s.complete serial)
  | .reset => .next s.applyReset
  | .offer word => .next (s.setCmd (s.cmd ++ [word]))
  | .setReady ready => .next (s.setReady ready)

/-- The move the schedule names, `turn` where it names none (log 5). -/
def stepMove (s : State) : Host.Outcome State Fault Refusal :=
  match s.schedule with
  | [] => turn s
  | m :: ms => runMove m (s.setSchedule ms)

/-- The decoder phase in which the next word of the command port completes a command of payload
`payload`: IDLE for a command of one word; for a `CB_SETALL` with a payload, PAYLOAD with every word but
the last taken (30_encoding.md R96). -/
def phaseBeforeLast (payload : List Word) : Dec :=
  if payload.length = 0 then .idle
  else
    .payload (BitVec.ofNat 16 payload.length) (payload.length - 1)
      (payload.dropLast.foldl acceptPayload ([], false)).1
      (payload.dropLast.foldl acceptPayload ([], false)).2

/-- The last word of a command: its header, or its last payload word. -/
def lastWord (hd : Word) (payload : List Word) : Word := payload.getLastD hd

/-- The state in which the next step runs exactly the command of header `hd` and payload `payload`: the
last word of it is the next of the command port, every earlier one has been accepted, the schedule gives
the core its turn, no response word is pending and no call is outstanding (log 12). -/
def State.withCommand (s : State) (hd : Word) (payload : List Word) : State :=
  { s with
    dec := phaseBeforeLast payload
    cmd := lastWord hd payload :: s.cmd
    taken := s.taken ++ s.rsp
    rsp := []
    txCall := none
    schedule := .turn :: s.schedule }

end Sys2Proof.Machine
end

