-- ==== Sys2Proof/Machine/Step.lean ====
section
/-! DEFINITION. One step, and where it finds its next command. -/

namespace Sys2Proof.Machine

/-- One step of the machine: one move of the agent the schedule names. -/
def step (s : State) : Host.Outcome State Fault Refusal := stepMove s

/-- `s` with the instruction of `nbits` bits `w` (numbered as spec/opcode_table.json numbers them, the bits
above `nbits` zero) standing where the next step takes its command from. -/
def State.withFetchWord (s : State) (nbits w : Nat) : State :=
  s.withCommand (BitVec.ofNat 64 (w % 2 ^ nbits))
    (tablePayload (w % 2 ^ nbits) (payloadCount (BitVec.ofNat 64 (w % 2 ^ nbits))))

end Sys2Proof.Machine
end

