-- ==== Sys2Proof/Safety.lean ====
section
/-! DEFINITION. What counts as a good state and a safe run, in the terms claims use: the invariants INV1 to
INV4 (10_state.md R32), the tables of 60_exceptions.md R186, R191, R195, the host's duties
(70_reset_and_hazards.md R226, R230 to R232), the end of a run (R241), and which part of the state can be
read (10_state.md R36, R38). -/

namespace Sys2Proof.Machine

/-! ### Invariants -/

/-- INV1, INV2, INV3 and the first half of INV4 (10_state.md R32): BUF is the array of offsets
`0 .. N*96+HB-1`, its first HB bytes are HEADER, slice `i` is `Encode(PIX[i], TP)`, and PIX has N
elements. -/
def BufferInv (s : State) : Prop :=
  s.buf.map Prod.fst = List.range s.bufLength ∧
  s.buf.readBytes 0 s.params.headerBytes = s.params.header ∧
  (∀ i, i < s.n.toNat →
    s.buf.readBytes (s.slice i) 96 = encodeColor s.params (s.pix.getD i Color.black) s.tp) ∧
  s.pix.length = s.n.toNat

/-- The second half of INV4 (10_state.md R32): `N = W*H` and GRID has `W*H` cells. -/
def GridInv (s : State) : Prop :=
  s.n.toNat = s.w.toNat * s.h.toNat ∧ s.grid.length = s.w.toNat * s.h.toNat

/-- The decoder phase counts right (10_state.md R30 "`got < count`"; 30_encoding.md R96): each accepted
payload word has appended a colour or set the mark. -/
def Dec.ok : Dec → Bool
  | .idle => true
  | .payload count got colors malformed =>
      decide (got < count.toNat) &&
        (if malformed then decide (colors.length < got) else decide (colors.length = got))

/-- The transmissions in flight carry distinct serial numbers, all of them given out (log 8). -/
def TxqInv (s : State) : Prop :=
  s.txq.Pairwise (fun a b => a.serial < b.serial) ∧ ∀ t ∈ s.txq, t.serial < s.txSerial

/-- The invariant of the machine. The clauses on the arrays hold while LIFE is CB_LIVE or DISP_LIVE, as in
10_state.md R32. -/
def Inv (s : State) : Prop :=
  s.buf.wf ∧ (s.life.live = true → BufferInv s) ∧ (s.life = .dispLive → GridInv s) ∧
    s.dec.ok = true ∧ TxqInv s

/-! ### The tables of the errors -/

/-- The lifecycle states in which a command is valid (60_exceptions.md R195). -/
def validIn : Instr → Life → Bool
  | .peEncode _ _, _ => true
  | .gmIndex _ _ _ _ _, _ => true
  | .gmShift _ _ _ _, _ => true
  | .cbNew _ _, l => l == .empty
  | .dispNew _ _ _ _, l => l == .empty
  | .cbSetColor _ _, l => l == .cbLive || l == .dispLive
  | .cbSetAll _ _ _, l => l == .cbLive || l == .dispLive
  | .cbShiftR _ _ _, l => l == .cbLive || l == .dispLive
  | .cbShiftL _ _ _, l => l == .cbLive || l == .dispLive
  | .cbSend _, l => l == .cbLive || l == .dispLive
  | .cbTurnOff _, l => l == .cbLive || l == .dispLive
  | .cbRelease, l => l != .empty
  | .dispSetPixel _ _ _, l => l == .dispLive
  | .dispRender, l => l == .dispLive
  | .dispShiftR _ _, l => l == .dispLive

/-- The command's own checks, in the order of 60_exceptions.md R191, with the conditions of R186. -/
def ownError : Instr → State → Option Status
  | .cbSetColor index _, s => if index.toNat ≥ s.n.toNat then some .indexOutOfRange else none
  | .cbSetAll count _ _, s => if count ≠ s.n then some .sizeMismatch else none
  | .cbShiftR start length steps, s | .cbShiftL start length steps, s =>
      if start.toNat + length.toNat > s.n.toNat then some .indexOutOfRange
      else if steps.toNat > length.toNat then some .invalidArgument
      else none
  | .gmIndex x y width height mode, _ =>
      if mode.toNat > 3 then some .configurationError
      else if x.toNat ≥ width.toNat ∨ y.toNat ≥ height.toNat then some .indexOutOfRange
      else none
  | .gmShift mode _ _ _, _ => if mode.toNat > 3 then some .configurationError else none
  | .dispSetPixel x y _, s =>
      if x.toNat ≥ s.w.toNat ∨ y.toNat ≥ s.h.toNat then some .indexOutOfRange else none
  | .dispRender, s => if s.mode.toNat > 3 then some .configurationError else none
  | .dispShiftR steps _, s =>
      if s.mode.toNat > 3 then some .configurationError
      else if s.h.toNat ≥ 1 ∧ steps.toNat > s.w.toNat then some .invalidArgument
      else none
  | .peEncode _ _, _ | .cbNew _ _, _ | .cbSend _, _ | .cbTurnOff _, _ | .cbRelease, _
  | .dispNew _ _ _ _, _ => none

/-- A `CB_SETALL` whose payload had a reserved bit set (30_encoding.md R88). -/
def payloadMalformed : Instr → Bool
  | .cbSetAll _ _ malformed => malformed
  | .peEncode _ _ | .cbNew _ _ | .cbSetColor _ _ | .cbShiftR _ _ _ | .cbShiftL _ _ _ | .cbSend _
  | .cbTurnOff _ | .cbRelease | .gmIndex _ _ _ _ _ | .gmShift _ _ _ _ | .dispNew _ _ _ _
  | .dispSetPixel _ _ _ | .dispRender | .dispShiftR _ _ => false

/-- The one error a command reports (60_exceptions.md R191): first `IllegalCommand`, then
`LifecycleError`, then the command's own checks. -/
def expectedError (i : Instr) (s : State) : Option Status :=
  if payloadMalformed i then some .illegalCommand
  else if validIn i s.life = false then some .lifecycleError
  else ownError i s

/-- The kind and number of data words of a command that ends with status OK (30_encoding.md R101). -/
def expectedData : Instr → State → BitVec 7 × Nat
  | .peEncode _ _, _ => (0x03, 24)
  | .gmIndex _ _ _ _ _, _ => (0x01, 1)
  | .gmShift _ rowCount _ _, _ => (0x04, rowCount.toNat)
  | .dispRender, s => (0x02, s.w.toNat * s.h.toNat)
  | .cbNew _ _, _ | .cbSetColor _ _, _ | .cbSetAll _ _ _, _ | .cbShiftR _ _ _, _ | .cbShiftL _ _ _, _
  | .cbSend _, _ | .cbTurnOff _, _ | .cbRelease, _ | .dispNew _ _ _ _, _ | .dispSetPixel _ _ _, _
  | .dispShiftR _ _, _ => (0, 0)

/-! ### The machine at rest, and the end of a run -/

/-- The core can accept a command word in this step: it is its turn, no response word is pending and no
call is outstanding. -/
def Ready (s : State) : Prop := s.schedule = [] ∧ s.rsp = [] ∧ s.txCall = none

/-- The transmitter returns from the next call (log 6). -/
def State.callReturns (s : State) : Bool :=
  match s.txPlan with
  | .never :: _ => false
  | _ => true

/-- Every word of the command sequence has been accepted (70_reset_and_hazards.md R241): none is waiting at
the command port, and the host has none still to offer (log 5). -/
def AllAccepted (s : State) : Prop := s.cmd = [] ∧ ∀ w, Move.offer w ∉ s.schedule

/-- A run has ended (70_reset_and_hazards.md R241): every word accepted, `DEC = IDLE`, the last status word
taken, no transmitter call outstanding. -/
def Ended (s : State) : Prop := AllAccepted s ∧ s.dec = .idle ∧ s.rsp = [] ∧ s.txCall = none

/-- A run has ended quietly (70_reset_and_hazards.md R241). -/
def EndedQuietly (s : State) : Prop := Ended s ∧ s.txq = []

/-! ### The host's duties against the transmitter -/

/-- The commands that write BUF (10_state.md R26; 70_reset_and_hazards.md R230). -/
def writesBuf : Instr → Bool
  | .cbNew _ _ | .dispNew _ _ _ _ | .cbSetColor _ _ | .cbSetAll _ _ _ | .cbShiftR _ _ _ | .cbShiftL _ _ _
  | .cbTurnOff _ | .dispRender | .dispShiftR _ _ => true
  | .peEncode _ _ | .cbSend _ | .cbRelease | .gmIndex _ _ _ _ _ | .gmShift _ _ _ _
  | .dispSetPixel _ _ _ => false

/-- Whether a command that succeeds writes at least one byte of BUF (20_memory.md R55, R61 (b)): a rotation
of a range of length 0 and a write of all slices of an empty strip write none. For a `CB_SETALL` the
colours are as many as the slices (30_encoding.md R88). Writing the bytes that were there is a write
(log 9). -/
def writesBytes : Instr → State → Bool
  | .cbNew _ _, _ | .dispNew _ _ _ _, _ | .cbSetColor _ _, _ => true
  | .cbSetAll _ colors _, _ => decide (colors ≠ [])
  | .cbTurnOff _, s => decide (s.n.toNat ≠ 0)
  | .cbShiftR _ length _, _ | .cbShiftL _ length _, _ => decide (length.toNat ≠ 0)
  | .dispRender, s | .dispShiftR _ _, s => decide (s.w.toNat ≠ 0 ∧ s.h.toNat ≠ 0)
  | .peEncode _ _, _ | .cbSend _, _ | .cbRelease, _ | .gmIndex _ _ _ _ _, _ | .gmShift _ _ _ _, _
  | .dispSetPixel _ _ _, _ => false

/-- The commands that call the transmitter (60_exceptions.md R201, R203). -/
def callsTransmitter : Instr → Bool
  | .cbSend _ | .cbTurnOff _ | .dispShiftR _ _ | .cbRelease => true
  | .peEncode _ _ | .cbNew _ _ | .dispNew _ _ _ _ | .cbSetColor _ _ | .cbSetAll _ _ _ | .cbShiftR _ _ _
  | .cbShiftL _ _ _ | .gmIndex _ _ _ _ _ | .gmShift _ _ _ _ | .dispSetPixel _ _ _ | .dispRender => false

/-- The host issues no command that races a transmission in flight (70_reset_and_hazards.md R230, R231,
R232). -/
def Careful (i : Instr) (s : State) : Prop :=
  s.txq = [] ∨
    (callsTransmitter i = false ∧ (writesBytes i s = true → s.params.txCopiesOnSend = true))

/-- No transmission in flight has met a hazard: each delivers the bytes handed over
(20_memory.md R61 (b), (c)). -/
def CleanTxq (s : State) : Prop :=
  ∀ t ∈ s.txq, t.overlapped = false ∧ t.cut = false ∧
    (t.mutated = true → s.params.txCopiesOnSend = true)

/-- The host has given the core the attached transmitter's own durations (70_reset_and_hazards.md
R226). -/
def ProfileMatches (s : State) : Prop := s.life.live = true → s.tp = s.params.txDurations

/-! ### Cost classes -/

/-- The cost classes of 70_reset_and_hazards.md R240. "No rule of the spec depends on them": nothing in the
machine reads them (log 20). -/
inductive CostClass where
  /-- "O(1)" -/
  | constant
  /-- "O(n)", n the pixel count: n encodes, 96n bytes written -/
  | perPixel
  /-- "O(length) memory traffic, not O(length) recompute" -/
  | perRange
  /-- O(W*H) memory traffic, no encode -/
  | perCell
  /-- O(rowCount) -/
  | perRow
  deriving DecidableEq, Repr

/-- The cost class of a command (70_reset_and_hazards.md R240), for the commands the rule gives one:
it gives none to CB_SEND and CB_RELEASE ("Transmission time is not given"). -/
def costClass : Instr → Option CostClass
  | .cbSetColor _ _ | .dispSetPixel _ _ _ | .gmIndex _ _ _ _ _ | .peEncode _ _ => some .constant
  | .cbSetAll _ _ _ | .dispRender | .cbTurnOff _ | .cbNew _ _ | .dispNew _ _ _ _ => some .perPixel
  | .cbShiftR _ _ _ | .cbShiftL _ _ _ => some .perRange
  | .dispShiftR _ _ => some .perCell
  | .gmShift _ _ _ _ => some .perRow
  | .cbSend _ | .cbRelease => none

/-! ### What can be read -/

/-- The core's part of the state, and its two output ports: everything but what belongs to the host and
the transmitter (00_scope.md R13, 10_state.md R38). -/
def coreView (s : State) : State :=
  { s with
    cmd := [], rspReady := true, taken := [], txq := [], txSerial := 0, txPlan := []
    txCalls := [], strip := [], schedule := [] }

/-- The state with every register and array that no command can read set to a fixed value: in EMPTY and
RELEASED nothing but LIFE and DEC is readable, in CB_LIVE W, H, MODE and GRID are not
(10_state.md R36; 93_implementation_defined.md U15). -/
def readableView (s : State) : State :=
  match s.life with
  | .empty | .released =>
      { s with n := 0, tp := ⟨0, 0, 0, 0⟩, w := 0, h := 0, mode := 0, buf := [], pix := [], grid := [] }
  | .cbLive => { s with w := 0, h := 0, mode := 0, grid := [] }
  | .dispLive => s

/-- Two outcomes agree under a view of the state: both go on to states with the same view, or both stop
for the same reason. -/
def SameOutcome (view : State → State) : Host.Outcome State Fault Refusal →
    Host.Outcome State Fault Refusal → Prop
  | .next t, .next u => view t = view u
  | .fault f, .fault g => f = g
  | .refused f, .refused g => f = g
  | _, _ => False

end Sys2Proof.Machine
end

