-- ==== Sys2Proof/Certificates/Slice0/Obligations.lean ====
section
/-! DEFINITION. The statements about the model, for the provers. Each docstring names the rule of spec/ it
formalises, or says which log entry it rests on. -/

open Sys2Proof Sys2Proof.Machine

/-! ### Vocabulary of the statements -/

namespace Sys2Proof.Claims

/-- The mask of each row of spec/opcode_table.json. -/
def tableMask : Opcode → Word
  | .peEncode => 0xFF00000000000000
  | .cbNew => 0xFF0000FF00000000
  | .cbSetColor => 0xFF0000FFFF000000
  | .cbSetAll => 0xFF0000FFFFFFFFFF
  | .cbShiftR => 0xFF000000000000FF
  | .cbShiftL => 0xFF000000000000FF
  | .cbSend => 0xFFFFFFFFFFFFFFFE
  | .cbTurnOff => 0xFFFFFFFFFFFFFFFE
  | .cbRelease => 0xFFFFFFFFFFFFFFFF
  | .gmIndex => 0xFF0000000000FFFF
  | .gmShift => 0xFF0000000000FFFF
  | .dispNew => 0xFF00000000000000
  | .dispSetPixel => 0xFF0000FFFF000000
  | .dispRender => 0xFFFFFFFFFFFFFFFF
  | .dispShiftR => 0xFF0000FFFFFFFFFE

/-- The match value of each row of spec/opcode_table.json. -/
def tableMatch : Opcode → Word
  | .peEncode => 0x0100000000000000
  | .cbNew => 0x1000000000000000
  | .cbSetColor => 0x1100000000000000
  | .cbSetAll => 0x1200000000000000
  | .cbShiftR => 0x1300000000000000
  | .cbShiftL => 0x1400000000000000
  | .cbSend => 0x1500000000000000
  | .cbTurnOff => 0x1600000000000000
  | .cbRelease => 0x1700000000000000
  | .gmIndex => 0x2000000000000000
  | .gmShift => 0x2100000000000000
  | .dispNew => 0x3000000000000000
  | .dispSetPixel => 0x3100000000000000
  | .dispRender => 0x3200000000000000
  | .dispShiftR => 0x3300000000000000

/-- The opcodes of 30_encoding.md R84; R86 lists the others as illegal. -/
def legalOpcodes : List Byte :=
  [0x01, 0x10, 0x11, 0x12, 0x13, 0x14, 0x15, 0x16, 0x17, 0x20, 0x21, 0x30, 0x31, 0x32, 0x33]

/-- The status word `OK`. -/
def okWord : Word := 0x8000000000000000

/-- The same transmissions are in flight, with the same bytes handed over; the marks of the hazards
(log 8, log 9) may differ. -/
def SameInFlight (q q' : List Transmission) : Prop :=
  q'.map (fun t => (t.serial, t.bytes)) = q.map fun t => (t.serial, t.bytes)

/-- The whole buffer as a byte sequence, offset 0 first (20_memory.md R53 (3)). -/
def bufBytes (s : State) : List Byte := s.buf.map Prod.snd

/-- Bit `k` of `bitseq(c)` in the second form of 40_pulse_encoder.md R112: "the 24-bit number
`G*65536 + R*256 + B` written most significant bit first". -/
def transmissionBit (c : Color) (k : Nat) : Bool :=
  (c.g.toNat * 65536 + c.r.toNat * 256 + c.b.toNat).testBit (23 - k)

/-- The `PULSE` data word of bit `k`, as a number (30_encoding.md R100; 40_pulse_encoder.md R113, R114). -/
def pulseDataWord (p : Params) (c : Color) (t : TimingProfile) (k : Nat) : Word :=
  if transmissionBit c k then
    BitVec.ofNat 64 (0x03 * 2 ^ 56 + t.oneHigh.toNat * 2 ^ 24 + p.highMarker.toNat * 2 ^ 16 +
      t.oneLow.toNat * 2 ^ 8 + p.lowMarker.toNat)
  else
    BitVec.ofNat 64 (0x03 * 2 ^ 56 + t.zeroHigh.toNat * 2 ^ 24 + p.highMarker.toNat * 2 ^ 16 +
      t.zeroLow.toNat * 2 ^ 8 + p.lowMarker.toNat)

/-- Whether row `y` is mirrored under mode number `m` (42_grid_mapper.md R151, its table). -/
def mirrored (m y : Nat) : Prop := m = 1 ∨ (m = 2 ∧ y % 2 = 0) ∨ (m = 3 ∧ y % 2 = 1)

/-- The strip index of cell (x, y) under mode number `m` by the table of 42_grid_mapper.md R151. -/
def IsStripIndex (m x y width index : Nat) : Prop :=
  (mirrored m y → index = (width - 1 - x) + y * width) ∧ (¬ mirrored m y → index = x + y * width)

/-- `SliceWrite` for one pixel after the other: the loop `for i: SliceWrite(i, c[i])` of
41_command_buffer.md R121, R125, R134 and 43_display.md R166, R170. -/
def sliceLoop (s : State) (start : Nat) : List Color → Except Fault State
  | [] => .ok s
  | c :: cs =>
      match s.sliceWrite start c with
      | .error f => .error f
      | .ok t => sliceLoop t (start + 1) cs

/-- The core's state after a `TxSend(wait)` of the whole buffer: its status word is on the response port if
the call has returned, otherwise the call is outstanding (41_command_buffer.md R132; 60_exceptions.md
R201). -/
def afterSend (wait : Bool) (s : State) : State :=
  { s with
    rsp := if s.callReturns then s.rsp ++ [okWord] else s.rsp
    txCall := if s.callReturns then none else some (.send wait (bufBytes s)) }

/-- How a range of pixels and their slices moved Right by `steps` (41_command_buffer.md R128): element
`start + j` is afterwards at `start + ((j + steps) mod length)`, its slice with it, and everything
outside the range is as before. -/
def MovedRight (s : State) (start length steps : Nat) (p : List Color) (b : Memory) : Prop :=
  p.length = s.pix.length ∧
  (∀ j, j < length →
    p[start + (j + steps) % length]? = s.pix[start + j]? ∧
    b.readBytes (s.slice (start + (j + steps) % length)) 96 = s.buf.readBytes (s.slice (start + j)) 96) ∧
  (∀ k, k < start ∨ start + length ≤ k → p[k]? = s.pix[k]?) ∧
  (∀ a, a < s.slice start ∨ s.slice (start + length) ≤ a → b.read a = s.buf.read a)

/-- How a range of pixels and their slices moved Left by `steps` (41_command_buffer.md R129). -/
def MovedLeft (s : State) (start length steps : Nat) (p : List Color) (b : Memory) : Prop :=
  p.length = s.pix.length ∧
  (∀ j, j < length →
    p[start + j]? = s.pix[start + (j + steps) % length]? ∧
    b.readBytes (s.slice (start + j)) 96 = s.buf.readBytes (s.slice (start + (j + steps) % length)) 96) ∧
  (∀ k, k < start ∨ start + length ≤ k → p[k]? = s.pix[k]?) ∧
  (∀ a, a < s.slice start ∨ s.slice (start + length) ≤ a → b.read a = s.buf.read a)

/-- The checks of 41_command_buffer.md R127 in their order, all passed or the first that fails. -/
def ShiftErrors (i : Instr) (s : State) (start length steps : BitVec 16) : Prop :=
  (s.life.live = false → exec i s = raise s .lifecycleError) ∧
  (s.life.live = true → s.n.toNat < start.toNat + length.toNat → exec i s = raise s .indexOutOfRange) ∧
  (s.life.live = true → start.toNat + length.toNat ≤ s.n.toNat → length.toNat < steps.toNat →
    exec i s = raise s .invalidArgument)

end Sys2Proof.Claims

open Sys2Proof.Claims

/-! ### Encoding -/

/-- Decoding an encoded well-formed command gives it back, every operand at every value
(30_encoding.md R82, R83, R84, R88, R96). The payload words the encoder writes for a malformed CB_SETALL
are the model's choice (log 11). -/
def Obligations.DecodeOfEncodeIsIdentity : Prop :=
  ∀ i : Instr, i.wellFormed = true → decodeWords (encode i) = .ok i

/-- Encoding a decoded command gives its words back, where no payload word has a reserved bit set: no bit
of a word is dropped and no two commands have one encoding (30_encoding.md R82, R83, R87, R88). -/
def Obligations.EncodeOfDecodeIsIdentity : Prop :=
  ∀ (hd : Word) (payload : List Word) (i : Instr), decode hd payload = .ok i →
    (∀ p ∈ payload, field p 24 40 = 0) → encode i = hd :: payload

/-- What the decoder reads is well formed and has the opcode in `Wd[63:56]` (30_encoding.md R81, R96). -/
def Obligations.DecodedCommandIsWellFormed : Prop :=
  ∀ (hd : Word) (payload : List Word) (i : Instr), decode hd payload = .ok i →
    i.wellFormed = true ∧ i.opcode.byte = opcodeOf hd

/-- "word AND mask = match is the whole legality test for a header" (30_encoding.md R85), with the masks
and match values of spec/opcode_table.json. -/
def Obligations.HeaderLegalityIsMaskAndMatch : Prop :=
  ∀ (w : Word) (op : Opcode), headerOpcode w = .ok op ↔ w &&& tableMask op = tableMatch op

/-- Words written out in spec/: the examples of 40_pulse_encoder.md R114, 41_command_buffer.md R121, R123,
R128, R132, 42_grid_mapper.md R152, R155 and 43_display.md R166, R168, R172. -/
def Obligations.SampleWordsDecode : Prop :=
  decode 0x0112345608040309 [] = .ok (.peEncode ⟨0x12, 0x34, 0x56⟩ ⟨8, 4, 3, 9⟩) ∧
  decode 0x1000030008040309 [] = .ok (.cbNew 3 ⟨8, 4, 3, 9⟩) ∧
  decode 0x1100010000123456 [] = .ok (.cbSetColor 1 ⟨0x12, 0x34, 0x56⟩) ∧
  decode 0x1300010003000100 [] = .ok (.cbShiftR 1 3 1) ∧
  decode 0x1500000000000001 [] = .ok (.cbSend true) ∧
  decode 0x2002010A0A030000 [] = .ok (.gmIndex 2 1 10 10 3) ∧
  decode 0x2103030400010000 [] = .ok (.gmShift 3 3 4 1) ∧
  decode 0x3003020308040309 [] = .ok (.dispNew 3 2 3 ⟨8, 4, 3, 9⟩) ∧
  decode 0x3100010000010203 [] = .ok (.dispSetPixel 0 1 ⟨1, 2, 3⟩) ∧
  decode 0x3300010000000001 [] = .ok (.dispShiftR 1 true)

/-- The status word: bit 63 set, the status number in bits 7 to 0, nothing between (30_encoding.md R99). -/
def Obligations.StatusWordsAreNumbered : Prop :=
  (statusWord .ok).toNat = 2 ^ 63 + 0 ∧ (statusWord .indexOutOfRange).toNat = 2 ^ 63 + 1 ∧
  (statusWord .sizeMismatch).toNat = 2 ^ 63 + 2 ∧ (statusWord .invalidArgument).toNat = 2 ^ 63 + 3 ∧
  (statusWord .configurationError).toNat = 2 ^ 63 + 4 ∧ (statusWord .lifecycleError).toNat = 2 ^ 63 + 5 ∧
  (statusWord .illegalCommand).toNat = 2 ^ 63 + 6

/-! ### The command stream -/

/-- When the word at the command port decodes to a command of one word, the step is that command's meaning
on the state with the word taken (30_encoding.md R96, R97, R106). That the core takes a word only when
no response word is pending is the model's reading (log 7). -/
def Obligations.StepRunsTheDecodedCommand : Prop :=
  ∀ (s : State) (w : Word) (ws : List Word) (i : Instr), Ready s → s.dec = .idle → s.cmd = w :: ws →
    decode w [] = .ok i → step s = exec i { s with cmd := ws }

/-- An unknown opcode or a set reserved bit: one status word `IllegalCommand`, one word consumed, nothing
else changed (30_encoding.md R85, R86). -/
def Obligations.IllegalWordIsReportedWithoutEffect : Prop :=
  ∀ (s : State) (w : Word) (ws : List Word), Ready s → s.dec = .idle → s.cmd = w :: ws →
    (opcodeOf w ∉ legalOpcodes ∨
      ∃ op : Opcode, opcodeOf w = op.byte ∧ w &&& tableMask op ≠ tableMatch op) →
    step s = .next { s with cmd := ws, rsp := [0x8000000000000006] }

/-- The transitions of DEC (30_encoding.md R96). -/
def Obligations.PayloadWordsDriveTheDecoder : Prop :=
  (∀ (s : State) (w : Word) (ws : List Word), Ready s → s.dec = .idle → s.cmd = w :: ws →
    (w &&& tableMask .cbSetAll = tableMatch .cbSetAll → 1 ≤ (field w 40 16).toNat →
      step s = .next { s with cmd := ws, dec := .payload (field w 40 16) 0 [] false }) ∧
    (¬ (w &&& tableMask .cbSetAll = tableMatch .cbSetAll ∧ 1 ≤ (field w 40 16).toNat) →
      (∀ i, decode w [] = .ok i → step s = exec i { s with cmd := ws }) ∧
      (∀ e, decode w [] = .error e → step s = raise { s with cmd := ws } .illegalCommand))) ∧
  (∀ (s : State) (w : Word) (ws : List Word) (count : BitVec 16) (got : Nat) (colors : List Color)
      (mark : Bool), Ready s → s.dec = .payload count got colors mark → s.cmd = w :: ws →
    ∀ (colors' : List Color) (mark' : Bool),
      (field w 24 40 ≠ 0 → colors' = colors ∧ mark' = true) →
      (field w 24 40 = 0 →
        colors' = colors ++ [⟨field w 16 8, field w 8 8, field w 0 8⟩] ∧ mark' = mark) →
      (got + 1 = count.toNat →
        step s = exec (.cbSetAll count colors' mark') { s with cmd := ws, dec := .idle }) ∧
      (got + 1 ≠ count.toNat →
        step s = .next { s with cmd := ws, dec := .payload count (got + 1) colors' mark' }))

/-- A whole command, offered word by word, runs as one abstract command: "A model may equivalently treat
CB_SETALL as one abstract command" (30_encoding.md R96); all payload words are consumed whatever the
outcome (R88). -/
def Obligations.CommandStreamRunsAsOneCommand : Prop :=
  ∀ (s : State) (hd : Word) (payload ws : List Word) (i : Instr), Ready s → s.dec = .idle →
    s.cmd = hd :: payload ++ ws → decode hd payload = .ok i →
    Host.Core.run Sys2Proof.core (payload.length + 1) s = exec i { s with cmd := ws }

/-- A word placed where the next step takes its command from is the command that step runs, with its
payload, whatever the state of the ports. The placing stands for the host's offer (log 12). -/
def Obligations.FetchWordRunsTheCommand : Prop :=
  ∀ (s : State) (nbits w : Nat) (i : Instr), decodeTableWord nbits w = some i →
    step (s.withFetchWord nbits w) =
      exec i { s with dec := .idle, taken := s.taken ++ s.rsp, rsp := [], txCall := none }

/-- The ports at rest, and the moves of the environment. The core waits for a word that has not been offered
(70_reset_and_hazards.md R241); a host that is ready takes the oldest response word, one that is not ready
stalls the core (R236). A step makes the move the schedule names: the turn of the ports, the completion of a
transmission (60_exceptions.md R202), one more offered word (30_encoding.md R80), the ready line (R236); the
reset input is in ResetInputClearsTheCore. That the schedule names it and that a wait is a step to the same
state is the model's form (log 5, log 7). -/
def Obligations.PortsWaitAndHandOver : Prop :=
  (∀ s : State, Ready s → s.cmd = [] → step s = .next s) ∧
  (∀ (s : State) (w : Word) (ws : List Word), s.schedule = [] → s.rsp = w :: ws → s.rspReady = true →
    step s = .next { s with rsp := ws, taken := s.taken ++ [w] }) ∧
  (∀ s : State, s.schedule = [] → s.rsp ≠ [] → s.rspReady = false → step s = .next s) ∧
  (∀ (s : State) (ms : List Move),
    (s.schedule = [] → step s = turn s) ∧
    (s.schedule = .turn :: ms → step s = turn { s with schedule := ms }) ∧
    (∀ k, s.schedule = .complete k :: ms → step s = .next (State.complete { s with schedule := ms } k)) ∧
    (∀ w, s.schedule = .offer w :: ms → step s = .next { s with schedule := ms, cmd := s.cmd ++ [w] }) ∧
    (∀ r, s.schedule = .setReady r :: ms → step s = .next { s with schedule := ms, rspReady := r }))

/-- A call that never returns holds the core: in any number of steps in which no reset is asserted, the
core's state does not change, no status word appears, no command is accepted, and the run has not ended
(70_reset_and_hazards.md R233); a reset recovers the core. That a call outstanding in a state is one that
never returns is the model's choice (log 6: a call that returns does so in the step that makes it; by
60_exceptions.md R201 one outstanding could still return). That a wait is a step to the same state is the
model's form (log 5). -/
def Obligations.OutstandingCallHoldsTheCore : Prop :=
  (∀ (k : Nat) (s : State), s.txCall ≠ none → s.rsp = [] → (∀ m ∈ s.schedule, m ≠ .reset) →
    ∃ t, Host.Core.run Sys2Proof.core k s = .next t ∧ coreView t = coreView s ∧ s.cmd <+: t.cmd ∧
      ¬ Ended t) ∧
  (∀ (s : State) (ms : List Move), s.schedule = .reset :: ms →
    ∃ t, step s = .next t ∧ t.txCall = none ∧ t.rsp = [] ∧ t.dec = .idle ∧ t.life = .empty)

/-! ### Invariants and whole-machine rules -/

/-- The state after reset meets the invariant. -/
def Obligations.ResetMeetsInvariant : Prop := Inv State.reset

/-- Every step keeps the invariant: INV1 to INV4 of 10_state.md R32 in the live states, the canonical form
of BUF, the decoder's count, and distinct transmissions in flight (log 8). -/
def Obligations.StepKeepsInvariant : Prop :=
  ∀ s t : State, Inv s → step s = .next t → Inv t

/-- From every state that meets the invariant a step gives a next state: the block never halts on an
error (00_scope.md R14) and no command addresses outside an array (60_exceptions.md R187). -/
def Obligations.StepNeverStops : Prop :=
  ∀ s : State, Inv s → ∃ t, step s = .next t

/-- The reset input (70_reset_and_hazards.md R220, R221; 10_state.md R36): a step whose move is the reset leaves
EMPTY, IDLE, no response word, no call outstanding, no array, no TxRelease issued. What of the environment
stays is log 4. -/
def Obligations.ResetInputClearsTheCore : Prop :=
  ∀ (s : State) (ms : List Move), s.schedule = .reset :: ms →
    ∃ t, step s = .next t ∧ t.life = .empty ∧ t.dec = .idle ∧ t.rsp = [] ∧
      t.txCall = none ∧ t.buf = [] ∧ t.pix = [] ∧ t.grid = [] ∧ t.txCalls = s.txCalls ∧
      SameInFlight s.txq t.txq ∧ (∀ x ∈ t.txq, x.cut = true) ∧ t.cmd = s.cmd ∧ t.taken = s.taken ∧
      t.strip = s.strip ∧ t.rspReady = s.rspReady ∧ t.params = s.params ∧ t.schedule = ms

/-- A step that reports an error changes nothing but the response: its single word is the status word, the
decoder is in IDLE, one word has been taken, nothing was called (60_exceptions.md R190). -/
def Obligations.FailedCommandChangesNothing : Prop :=
  ∀ (s t : State) (e : Status), Ready s → e ≠ .ok → step s = .next t → statusWord e ∈ t.rsp →
    t = { s with cmd := s.cmd.tail, dec := .idle, rsp := [statusWord e] }

/-- Every command gives one response: its data words, of the number and kind of 30_encoding.md R101, none
with an error, then one status word; unless its transmitter call never returns, when there is none. -/
def Obligations.EveryCommandGivesOneResponse : Prop :=
  ∀ (i : Instr) (s t : State), s.txCall = none → exec i s = .next t →
    (t.txCall ≠ none ∧ t.rsp = s.rsp) ∨
    ∃ (data : List Word) (e : Status), t.txCall = none ∧ t.rsp = s.rsp ++ data ++ [statusWord e] ∧
      (e ≠ .ok → data = []) ∧
      (e = .ok → data.length = (expectedData i s).2 ∧
        ∀ d ∈ data, field d 63 1 = 0 ∧ field d 56 7 = (expectedData i s).1)

/-- A command reports `LifecycleError` exactly in the states in which 60_exceptions.md R195 does not list
it as valid (a CB_SETALL with a malformed payload aside: R191). -/
def Obligations.LifecycleErrorIsTheTable : Prop :=
  ∀ (i : Instr) (s : State), payloadMalformed i = false →
    (exec i s = raise s .lifecycleError ↔ validIn i s.life = false)

/-- Each command reports exactly the error the tables of 60_exceptions.md R186 and R191 give, in their
order of checks. -/
def Obligations.ErrorsAreTheTables : Prop :=
  ∀ (i : Instr) (s : State) (e : Status), e ≠ .ok →
    (exec i s = raise s e ↔ expectedError i s = some e)

/-- The transitions of LIFE (10_state.md R21): by CB_NEW, DISP_NEW and CB_RELEASE from the states the rule
names, by reset from any state to EMPTY, and no other. -/
def Obligations.LifecycleTransitions : Prop :=
  (∀ (i : Instr) (s t : State), exec i s = .next t →
    t.life = s.life ∨
    ((∃ n p, i = .cbNew n p) ∧ s.life = .empty ∧ t.life = .cbLive) ∨
    ((∃ w h m p, i = .dispNew w h m p) ∧ s.life = .empty ∧ t.life = .dispLive) ∨
    (i = .cbRelease ∧ (s.life = .cbLive ∨ s.life = .dispLive) ∧ t.life = .released)) ∧
  (∀ s t : State, step s = .next t →
    t.life = s.life ∨ (s.schedule.head? = some .reset ∧ t.life = .empty) ∨
    (s.life = .empty ∧ (t.life = .cbLive ∨ t.life = .dispLive)) ∨
    ((s.life = .cbLive ∨ s.life = .dispLive) ∧ t.life = .released))

/-- After release nothing but reset changes the core's registers and arrays, and no call is made
(41_command_buffer.md R136; 60_exceptions.md R203). -/
def Obligations.ReleasedIsFinal : Prop :=
  ∀ s t : State, s.life = .released → s.schedule.head? ≠ some .reset → step s = .next t →
    t.life = .released ∧ t.txCalls = s.txCalls ∧ t.n = s.n ∧ t.tp = s.tp ∧ t.w = s.w ∧ t.h = s.h ∧
      t.mode = s.mode ∧ t.buf = s.buf ∧ t.pix = s.pix ∧ t.grid = s.grid

/-- While LIFE is RELEASED the last call on the transmitter port is the release (60_exceptions.md R203:
"must be the last operation performed on the transmitter"). -/
def Obligations.ReleaseIsTheLastCall : Prop :=
  ∀ s t : State, (s.life = .released → s.txCalls.getLast? = some .release) → step s = .next t →
    (t.life = .released → t.txCalls.getLast? = some .release)

/-- N, TP, W, H and MODE are written once per session (10_state.md R22 to R25), and no step writes a
parameter (00_scope.md R7). -/
def Obligations.SessionRegistersAreWrittenOnce : Prop :=
  ∀ s t : State, step s = .next t →
    t.params = s.params ∧
    (s.life ≠ .empty → t.life ≠ .empty →
      t.n = s.n ∧ t.tp = s.tp ∧ t.w = s.w ∧ t.h = s.h ∧ t.mode = s.mode)

/-- "The header bytes `BUF[0..HB)` are written by the NEW commands only and by nothing else, ever"
(10_state.md R26). -/
def Obligations.HeaderIsNeverRewritten : Prop :=
  ∀ (i : Instr) (s t : State), Inv s → (∀ n p, i ≠ .cbNew n p) → (∀ w h m p, i ≠ .dispNew w h m p) →
    exec i s = .next t → ∀ a, a < s.params.headerBytes → t.buf.read a = s.buf.read a

/-- GRID is written by DISP_NEW and DISP_SETPIXEL only (10_state.md R31), and DISP_SETPIXEL writes neither
PIX nor BUF (43_display.md R173). -/
def Obligations.GridAndPixelsAreSeparate : Prop :=
  ∀ (i : Instr) (s t : State), exec i s = .next t →
    ((∀ w h m p, i ≠ .dispNew w h m p) → (∀ x y c, i ≠ .dispSetPixel x y c) → t.grid = s.grid) ∧
    (∀ x y c, i = .dispSetPixel x y c → t.pix = s.pix ∧ t.buf = s.buf)

/-- The frame of the commands that are safe at any time (70_reset_and_hazards.md R230; 10_state.md R26):
PE_ENCODE, GM_INDEX and GM_SHIFT change nothing but the response, DISP_SETPIXEL nothing but the response
and GRID. -/
def Obligations.SafeCommandsTouchNothing : Prop :=
  ∀ (i : Instr) (s t : State), exec i s = .next t →
    (writesBuf i = false ∧ callsTransmitter i = false →
      t = { s with rsp := t.rsp, grid := t.grid } ∧
      ((∀ x y c, i ≠ .dispSetPixel x y c) → t.grid = s.grid))

/-! ### PulseEncoder -/

/-- `bitseq(c)` is "the 24-bit number `G*65536 + R*256 + B` written most significant bit first"
(40_pulse_encoder.md R112). -/
def Obligations.BitSequenceIsTheNumberMsbFirst : Prop :=
  ∀ c : Color, bitseq c = (List.range 24).map (transmissionBit c) ∧
    (∀ k, k < 24 → (bitseq c)[k]? = some
      (if k ≤ 7 then c.g.getLsbD (7 - k) else if k ≤ 15 then c.r.getLsbD (15 - k)
        else c.b.getLsbD (23 - k)))

/-- The layout of a pixel block (40_pulse_encoder.md R113): 96 bytes, pulse command `k` at `4k .. 4k+3`; the
off pattern is 24 repetitions of the zero-bit pulse command (R118). -/
def Obligations.PixelBlockLayout : Prop :=
  ∀ (p : Params) (c : Color) (t : TimingProfile), (encodeColor p c t).length = 96 ∧
    offPattern p t = (List.replicate 24 [t.zeroHigh, p.highMarker, t.zeroLow, p.lowMarker]).flatten ∧
    ∀ k, k < 24 →
      (encodeColor p c t)[4 * k]? = some (if transmissionBit c k then t.oneHigh else t.zeroHigh) ∧
      (encodeColor p c t)[4 * k + 1]? = some p.highMarker ∧
      (encodeColor p c t)[4 * k + 2]? = some (if transmissionBit c k then t.oneLow else t.zeroLow) ∧
      (encodeColor p c t)[4 * k + 3]? = some p.lowMarker

/-- Decodability (40_pulse_encoder.md R115, R116): where the one-bit pair differs from the zero-bit pair the
block decodes to the bit sequence and `Encode(., t)` is injective; where they are equal every colour has
the same block. -/
def Obligations.PixelBlockIsDecodable : Prop :=
  ∀ (p : Params) (t : TimingProfile),
    ((t.oneHigh, t.oneLow) ≠ (t.zeroHigh, t.zeroLow) →
      (∀ (c : Color) (k : Nat), k < 24 →
        decodePulse t (encodeColor p c t) k = some (transmissionBit c k)) ∧
      (∀ c d : Color, encodeColor p c t = encodeColor p d t → c = d)) ∧
    ((t.oneHigh, t.oneLow) = (t.zeroHigh, t.zeroLow) →
      ∀ c d : Color, encodeColor p c t = encodeColor p d t)

/-- PE_ENCODE in every state (40_pulse_encoder.md R114): 24 `PULSE` words and status OK, nothing else. -/
def Obligations.PeEncodeResult : Prop :=
  ∀ (c : Color) (t : TimingProfile) (s : State), exec (.peEncode c t) s =
    .next { s with rsp := s.rsp ++ (List.range 24).map (pulseDataWord s.params c t) ++ [okWord] }

/-! ### CommandBuffer -/

/-- CB_NEW (41_command_buffer.md R121). -/
def Obligations.CbNewResult : Prop :=
  ∀ (s : State) (n : BitVec 16) (t : TimingProfile),
    (s.life ≠ .empty → exec (.cbNew n t) s = raise s .lifecycleError) ∧
    (s.life = .empty →
      ∃ (b : Memory) (q : List Transmission),
        exec (.cbNew n t) s =
          .next { s with
            life := .cbLive, n := n, tp := t, buf := b, pix := List.replicate n.toNat Color.black
            txq := q, rsp := s.rsp ++ [okWord] } ∧
        SameInFlight s.txq q ∧
        b.map Prod.fst = List.range (n.toNat * 96 + s.params.headerBytes) ∧
        b.readBytes 0 s.params.headerBytes = s.params.header ∧
        ∀ i, i < n.toNat →
          b.readBytes (s.params.headerBytes + i * 96) 96 = offPattern s.params t)

/-- CB_SETCOLOR (41_command_buffer.md R123): one pixel and its 96 bytes. -/
def Obligations.CbSetColorResult : Prop :=
  ∀ (s : State) (index : BitVec 16) (c : Color),
    (s.life.live = false → exec (.cbSetColor index c) s = raise s .lifecycleError) ∧
    (s.life.live = true → s.n.toNat ≤ index.toNat →
      exec (.cbSetColor index c) s = raise s .indexOutOfRange) ∧
    (Inv s → s.life.live = true → index.toNat < s.n.toNat →
      ∃ (b : Memory) (q : List Transmission),
        exec (.cbSetColor index c) s =
          .next { s with
            pix := s.pix.set index.toNat c, buf := b, txq := q, rsp := s.rsp ++ [okWord] } ∧
        SameInFlight s.txq q ∧
        b.readBytes (s.slice index.toNat) 96 = encodeColor s.params c s.tp ∧
        ∀ a, a < s.slice index.toNat ∨ s.slice index.toNat + 96 ≤ a → b.read a = s.buf.read a)

/-- CB_SETALL (41_command_buffer.md R125), its payload received: the checks in their order, then the whole
pixel array and every slice. -/
def Obligations.CbSetAllResult : Prop :=
  ∀ (s : State) (count : BitVec 16) (cs : List Color),
    exec (.cbSetAll count cs true) s = raise s .illegalCommand ∧
    (s.life.live = false → exec (.cbSetAll count cs false) s = raise s .lifecycleError) ∧
    (s.life.live = true → count ≠ s.n → exec (.cbSetAll count cs false) s = raise s .sizeMismatch) ∧
    (Inv s → s.life.live = true → count = s.n → (Instr.cbSetAll count cs false).wellFormed = true →
      ∃ (b : Memory) (q : List Transmission),
        exec (.cbSetAll count cs false) s =
          .next { s with pix := cs, buf := b, txq := q, rsp := s.rsp ++ [okWord] } ∧
        SameInFlight s.txq q ∧
        (∀ i, i < s.n.toNat →
          b.readBytes (s.slice i) 96 = encodeColor s.params (cs.getD i Color.black) s.tp) ∧
        ∀ a, a < s.params.headerBytes ∨ s.bufLength ≤ a → b.read a = s.buf.read a)

/-- CB_SHIFTR (41_command_buffer.md R127, R128). -/
def Obligations.CbShiftRightResult : Prop :=
  ∀ (s : State) (start length steps : BitVec 16),
    ShiftErrors (.cbShiftR start length steps) s start length steps ∧
    (Inv s → s.life.live = true → start.toNat + length.toNat ≤ s.n.toNat →
      steps.toNat ≤ length.toNat →
      ∃ (p : List Color) (b : Memory) (q : List Transmission),
        exec (.cbShiftR start length steps) s =
          .next { s with pix := p, buf := b, txq := q, rsp := s.rsp ++ [okWord] } ∧
        SameInFlight s.txq q ∧ MovedRight s start.toNat length.toNat steps.toNat p b)

/-- CB_SHIFTL (41_command_buffer.md R127, R129). -/
def Obligations.CbShiftLeftResult : Prop :=
  ∀ (s : State) (start length steps : BitVec 16),
    ShiftErrors (.cbShiftL start length steps) s start length steps ∧
    (Inv s → s.life.live = true → start.toNat + length.toNat ≤ s.n.toNat →
      steps.toNat ≤ length.toNat →
      ∃ (p : List Color) (b : Memory) (q : List Transmission),
        exec (.cbShiftL start length steps) s =
          .next { s with pix := p, buf := b, txq := q, rsp := s.rsp ++ [okWord] } ∧
        SameInFlight s.txq q ∧ MovedLeft s start.toNat length.toNat steps.toNat p b)

/-- The laws of rotation (41_command_buffer.md R130): (a) the two directions undo each other, PIX and BUF
bit for bit; (b) Left by `k` is Right by `length - k`; (c) the invariants are kept; (d) the colours in
the range are permuted and nothing outside it changes; (e) two rotations in one direction compose to one by the sum modulo the length. The operands are
valid in the sense of R127. -/
def Obligations.LawsOfRotation : Prop :=
  ∀ (s : State) (start length k : BitVec 16), Inv s → s.life.live = true →
    start.toNat + length.toNat ≤ s.n.toNat → k.toNat ≤ length.toNat →
    (∀ t u : State, exec (.cbShiftR start length k) s = .next t →
      exec (.cbShiftL start length k) t = .next u → u.pix = s.pix ∧ u.buf = s.buf) ∧
    (∀ t u : State, exec (.cbShiftL start length k) s = .next t →
      exec (.cbShiftR start length k) t = .next u → u.pix = s.pix ∧ u.buf = s.buf) ∧
    exec (.cbShiftL start length k) s = exec (.cbShiftR start length (length - k)) s ∧
    (∀ t : State, exec (.cbShiftR start length k) s = .next t ∨
      exec (.cbShiftL start length k) s = .next t →
      Inv t ∧ List.Perm ((t.pix.drop start.toNat).take length.toNat)
        ((s.pix.drop start.toNat).take length.toNat) ∧
      (∀ a, a < start.toNat ∨ start.toNat + length.toNat ≤ a → t.pix[a]? = s.pix[a]?) ∧
      ∀ a, a < s.slice start.toNat ∨ s.slice (start.toNat + length.toNat) ≤ a →
        t.buf.read a = s.buf.read a) ∧
    (∀ (k2 k3 : BitVec 16) (t u v : State), k2.toNat ≤ length.toNat → 1 ≤ length.toNat →
      k3.toNat = (k.toNat + k2.toNat) % length.toNat →
      (exec (.cbShiftR start length k) s = .next t → exec (.cbShiftR start length k2) t = .next u →
        exec (.cbShiftR start length k3) s = .next v → v.pix = u.pix ∧ v.buf = u.buf) ∧
      (exec (.cbShiftL start length k) s = .next t → exec (.cbShiftL start length k2) t = .next u →
        exec (.cbShiftL start length k3) s = .next v → v.pix = u.pix ∧ v.buf = u.buf))

/-- CB_SEND (41_command_buffer.md R132; 60_exceptions.md R201): the whole buffer is handed over, the core's
state is unchanged, and the status word appears when the call has returned. Whether it returns is the
environment's plan (log 6). -/
def Obligations.CbSendResult : Prop :=
  ∀ (s : State) (wait : Bool),
    (s.life.live = false → exec (.cbSend wait) s = raise s .lifecycleError) ∧
    (Inv s → s.life.live = true →
      (bufBytes s).length = s.n.toNat * 96 + s.params.headerBytes ∧
      (∃ t, exec (.cbSend wait) s = .next t ∧ coreView t = coreView (afterSend wait s) ∧
        t.txCalls = s.txCalls ++ [.send wait (bufBytes s)] ∧ t.cmd = s.cmd ∧ t.taken = s.taken ∧
        t.schedule = s.schedule) ∧
      (wait = false → s.txPlan = [] → ∃ t, exec (.cbSend wait) s = .next t ∧ t.strip = s.strip ∧
        t.txq.map (fun x => (x.serial, x.bytes)) =
          s.txq.map (fun x => (x.serial, x.bytes)) ++ [(s.txSerial, bufBytes s)]))

/-- A blocking send that returns, no other transmission being in flight: it has completed, and the strip has
received exactly the bytes of BUF at the call (20_memory.md R61 (a), R62). An overlap with an earlier
transmission is left out: log 10. -/
def Obligations.BlockingSendDeliversTheBuffer : Prop :=
  ∀ s t : State, Inv s → s.life.live = true → s.txq = [] → s.callReturns = true →
    exec (.cbSend true) s = .next t →
    t.txq = [] ∧ t.strip = s.strip ++ [⟨s.txSerial, bufBytes s⟩]

/-- CB_TURNOFF (41_command_buffer.md R134): every pixel black, every slice the off pattern, the header and
GRID unchanged, one TxSend of the new buffer; the status word when the call has returned (R132). Whether
it returns is the environment's plan (log 6). -/
def Obligations.CbTurnOffResult : Prop :=
  ∀ (s : State) (wait : Bool),
    (s.life.live = false → exec (.cbTurnOff wait) s = raise s .lifecycleError) ∧
    (Inv s → s.life.live = true →
      ∃ (t : State) (b : Memory), exec (.cbTurnOff wait) s = .next t ∧
        coreView t = coreView (afterSend wait { s with
          pix := List.replicate s.n.toNat Color.black, buf := b }) ∧
        (∀ i, i < s.n.toNat → b.readBytes (s.slice i) 96 = offPattern s.params s.tp) ∧
        (∀ a, a < s.params.headerBytes ∨ s.bufLength ≤ a → b.read a = s.buf.read a) ∧
        t.txCalls = s.txCalls ++ [.send wait (bufBytes t)] ∧ t.cmd = s.cmd ∧ t.taken = s.taken)

/-- CB_TURNOFF "is equivalent to CB_SETALL of N blacks followed by CB_SEND with the same bit"
(41_command_buffer.md R134), the response of the CB_SETALL apart. -/
def Obligations.TurnOffIsSetAllThenSend : Prop :=
  ∀ (s u : State) (wait : Bool), Inv s → s.life.live = true →
    exec (.cbSetAll s.n (List.replicate s.n.toNat Color.black) false) s = .next u →
    exec (.cbTurnOff wait) s = exec (.cbSend wait) { u with rsp := s.rsp }

/-- CB_RELEASE (41_command_buffer.md R136): LifecycleError in EMPTY, nothing in RELEASED, otherwise one
TxRelease and, once it has returned, RELEASED; every register and array keeps its value. -/
def Obligations.CbReleaseResult : Prop :=
  ∀ s : State,
    (s.life = .empty → exec .cbRelease s = raise s .lifecycleError) ∧
    (s.life = .released → exec .cbRelease s = .next { s with rsp := s.rsp ++ [okWord] }) ∧
    (s.life.live = true → s.callReturns = true → ∃ t, exec .cbRelease s = .next t ∧
      coreView t = coreView { s with
        life := .released, rsp := s.rsp ++ [okWord], txCall := none } ∧
      t.txCalls = s.txCalls ++ [.release] ∧ t.cmd = s.cmd ∧ t.taken = s.taken) ∧
    (s.life.live = true → s.callReturns = false → ∃ t, exec .cbRelease s = .next t ∧
      coreView t = coreView { s with txCall := some .release } ∧ t.txCalls = s.txCalls ++ [.release])

/-! ### GridMapper -/

/-- Properties (a) to (e) of ToStripIndex (42_grid_mapper.md R153). -/
def Obligations.StripIndexProperties : Prop :=
  ∀ (mode : WiringMode) (x y width height : Nat), x < width → y < height →
    (y * width ≤ toStripIndex x y width mode ∧ toStripIndex x y width mode < (y + 1) * width) ∧
    toStripIndex x y width mode < width * height ∧
    toStripIndex (toStripIndex x y width mode % width) (toStripIndex x y width mode / width) width mode =
      x + y * width ∧
    (mode = .chained → toStripIndex x y width mode = x + y * width) ∧
    (mode = .evenReversed →
      toStripIndex x y width mode = if y % 2 = 0 then (width - 1 - x) + y * width else x + y * width) ∧
    (mode = .oddReversed →
      toStripIndex x y width mode = if y % 2 = 1 then (width - 1 - x) + y * width else x + y * width) ∧
    (mode = .allReversed → toStripIndex x y width mode = (width - 1 - x) + y * width) ∧
    (width = 1 → toStripIndex x y width mode = x + y * width)

/-- GM_INDEX in every lifecycle state (42_grid_mapper.md R151, R152): the mode is checked first, then the
coordinates; the data word of kind 0x01 carries the index of the table. -/
def Obligations.GmIndexResult : Prop :=
  ∀ (s : State) (x y width height mode : BitVec 8),
    (3 < mode.toNat → exec (.gmIndex x y width height mode) s = raise s .configurationError) ∧
    (mode.toNat ≤ 3 → width.toNat ≤ x.toNat ∨ height.toNat ≤ y.toNat →
      exec (.gmIndex x y width height mode) s = raise s .indexOutOfRange) ∧
    (mode.toNat ≤ 3 → x.toNat < width.toNat → y.toNat < height.toNat →
      ∃ index, IsStripIndex mode.toNat x.toNat y.toNat width.toNat index ∧
        exec (.gmIndex x y width height mode) s =
          .next { s with rsp := s.rsp ++ [BitVec.ofNat 64 (0x01 * 2 ^ 56 + index), okWord] })

/-- GM_SHIFT in every lifecycle state (42_grid_mapper.md R154, R155): one `SHIFTOP` word per row. -/
def Obligations.GmShiftResult : Prop :=
  ∀ (s : State) (mode rowCount width : BitVec 8) (steps : BitVec 16),
    (3 < mode.toNat → exec (.gmShift mode rowCount width steps) s = raise s .configurationError) ∧
    (mode.toNat ≤ 3 →
      ∃ data : List Word, data.length = rowCount.toNat ∧
        (∀ y, y < rowCount.toNat → ∃ dir : Nat,
          (mirrored mode.toNat y → dir = 1) ∧ (¬ mirrored mode.toNat y → dir = 0) ∧
          data[y]? = some (BitVec.ofNat 64 (0x04 * 2 ^ 56 + y * width.toNat * 2 ^ 40 +
            width.toNat * 2 ^ 24 + steps.toNat * 2 ^ 8 + dir))) ∧
        exec (.gmShift mode rowCount width steps) s =
          .next { s with rsp := s.rsp ++ data ++ [okWord] })

/-! ### Display -/

/-- DISP_NEW (43_display.md R166). -/
def Obligations.DispNewResult : Prop :=
  ∀ (s : State) (w h m : BitVec 8) (t : TimingProfile),
    (s.life ≠ .empty → exec (.dispNew w h m t) s = raise s .lifecycleError) ∧
    (s.life = .empty →
      ∃ (n : BitVec 16) (b : Memory) (q : List Transmission), n.toNat = w.toNat * h.toNat ∧
        exec (.dispNew w h m t) s =
          .next { s with
            life := .dispLive, w := w, h := h, mode := m, n := n, tp := t, buf := b
            pix := List.replicate n.toNat Color.black, grid := List.replicate n.toNat Color.black
            txq := q, rsp := s.rsp ++ [okWord] } ∧
        SameInFlight s.txq q ∧
        b.map Prod.fst = List.range (n.toNat * 96 + s.params.headerBytes) ∧
        b.readBytes 0 s.params.headerBytes = s.params.header ∧
        ∀ i, i < n.toNat →
          b.readBytes (s.params.headerBytes + i * 96) 96 = offPattern s.params t)

/-- DISP_SETPIXEL (43_display.md R168): one cell of GRID, nothing else. -/
def Obligations.DispSetPixelResult : Prop :=
  ∀ (s : State) (x y : BitVec 8) (c : Color),
    (s.life ≠ .dispLive → exec (.dispSetPixel x y c) s = raise s .lifecycleError) ∧
    (s.life = .dispLive → s.w.toNat ≤ x.toNat ∨ s.h.toNat ≤ y.toNat →
      exec (.dispSetPixel x y c) s = raise s .indexOutOfRange) ∧
    (Inv s → s.life = .dispLive → x.toNat < s.w.toNat → y.toNat < s.h.toNat →
      ∃ g : List Color,
        exec (.dispSetPixel x y c) s = .next { s with grid := g, rsp := s.rsp ++ [okWord] } ∧
        g.length = s.grid.length ∧ g[x.toNat + y.toNat * s.w.toNat]? = some c ∧
        ∀ a, a ≠ x.toNat + y.toNat * s.w.toNat → g[a]? = s.grid[a]?)

/-- DISP_RENDER (43_display.md R169, R170): PIX becomes the permuted grid, every slice its encoding, and the
response carries it; no transmitter call, GRID unchanged. -/
def Obligations.DispRenderResult : Prop :=
  ∀ s : State,
    (s.life ≠ .dispLive → exec .dispRender s = raise s .lifecycleError) ∧
    (s.life = .dispLive → 3 < s.mode.toNat → exec .dispRender s = raise s .configurationError) ∧
    (Inv s → s.life = .dispLive → s.mode.toNat ≤ 3 →
      ∃ (p : List Color) (b : Memory) (q : List Transmission),
        exec .dispRender s =
          .next { s with
            pix := p, buf := b, txq := q
            rsp := s.rsp ++ p.map (fun c => BitVec.ofNat 64
              (0x02 * 2 ^ 56 + c.r.toNat * 2 ^ 16 + c.g.toNat * 2 ^ 8 + c.b.toNat)) ++ [okWord] } ∧
        SameInFlight s.txq q ∧ p.length = s.w.toNat * s.h.toNat ∧
        (∀ x y index, x < s.w.toNat → y < s.h.toNat →
          IsStripIndex s.mode.toNat x y s.w.toNat index →
          p[index]? = s.grid[x + y * s.w.toNat]? ∧ p[x + y * s.w.toNat]? = s.grid[index]?) ∧
        (∀ i, i < s.n.toNat →
          b.readBytes (s.slice i) 96 = encodeColor s.params (p.getD i Color.black) s.tp) ∧
        ∀ a, a < s.params.headerBytes ∨ s.bufLength ≤ a → b.read a = s.buf.read a)

/-- DISP_SHIFTR (43_display.md R172): every row rotated by `steps` in its own direction with its slices, the
header and GRID unchanged, one TxSend of the new buffer, the status word when the call has returned; the
checks in their order. Whether the call returns is the environment's plan (log 6). -/
def Obligations.DispShiftResult : Prop :=
  ∀ (s : State) (steps : BitVec 16) (wait : Bool),
    (s.life ≠ .dispLive → exec (.dispShiftR steps wait) s = raise s .lifecycleError) ∧
    (s.life = .dispLive → 3 < s.mode.toNat →
      exec (.dispShiftR steps wait) s = raise s .configurationError) ∧
    (s.life = .dispLive → s.mode.toNat ≤ 3 → 1 ≤ s.h.toNat → s.w.toNat < steps.toNat →
      exec (.dispShiftR steps wait) s = raise s .invalidArgument) ∧
    (Inv s → s.life = .dispLive → s.mode.toNat ≤ 3 → (s.h.toNat = 0 ∨ steps.toNat ≤ s.w.toNat) →
      ∃ (t : State) (p : List Color) (b : Memory), exec (.dispShiftR steps wait) s = .next t ∧
        coreView t = coreView (afterSend wait { s with pix := p, buf := b }) ∧
        t.txCalls = s.txCalls ++ [.send wait (bufBytes t)] ∧ t.cmd = s.cmd ∧ t.taken = s.taken ∧
        p.length = s.pix.length ∧
        (∀ x y, x < s.w.toNat → y < s.h.toNat → ∀ src dst,
          (mirrored s.mode.toNat y →
            src = y * s.w.toNat + (x + steps.toNat) % s.w.toNat ∧ dst = y * s.w.toNat + x) →
          (¬ mirrored s.mode.toNat y →
            src = y * s.w.toNat + x ∧ dst = y * s.w.toNat + (x + steps.toNat) % s.w.toNat) →
          p[dst]? = s.pix[src]? ∧
          b.readBytes (s.slice dst) 96 = s.buf.readBytes (s.slice src) 96) ∧
        ∀ a, a < s.params.headerBytes ∨ s.bufLength ≤ a → b.read a = s.buf.read a)

/-- The decomposition is correct (42_grid_mapper.md R156): read through the wiring, the picture on the strip
after DISP_SHIFTR is the picture before it, shifted right by `steps` inside each row with wrap-around. -/
def Obligations.ShiftMovesThePictureRight : Prop :=
  ∀ (s t : State) (mode : WiringMode) (steps : BitVec 16) (wait : Bool), Inv s → s.life = .dispLive →
    WiringMode.ofByte s.mode = some mode → steps.toNat ≤ s.w.toNat →
    exec (.dispShiftR steps wait) s = .next t →
    ∀ x y, x < s.w.toNat → y < s.h.toNat →
      t.pix[toStripIndex ((x + steps.toNat) % s.w.toNat) y s.w.toNat mode]? =
        s.pix[toStripIndex x y s.w.toNat mode]?

/-- DISP_RENDER undoes shifts (43_display.md R173; 70_reset_and_hazards.md R234): rendering again after a
shift gives the pixels and the buffer of the first render. -/
def Obligations.RenderUndoesShift : Prop :=
  ∀ (s t u v : State) (steps : BitVec 16) (wait : Bool), Inv s → exec .dispRender s = .next t →
    exec (.dispShiftR steps wait) t = .next u → exec .dispRender u = .next v →
    s.life = .dispLive → s.mode.toNat ≤ 3 → v.pix = t.pix ∧ v.buf = t.buf

/-! ### Loops, the transmitter, and what cannot be seen -/

/-- The block form the commands use is the loop of single `SliceWrite`s of the spec (20_memory.md R55;
41_command_buffer.md R121, R125, R134), the marks of the transmissions in flight included. -/
def Obligations.SliceWritesAreTheLoop : Prop :=
  ∀ (s : State) (start : Nat) (cs : List Color), BufferInv s →
    start + cs.length ≤ s.n.toNat → s.writeSlices start cs = sliceLoop s start cs

/-- A host that keeps its duties gets what it sent (20_memory.md R61; 60_exceptions.md R202;
70_reset_and_hazards.md R230 to R232). From a state in which no transmission in flight has met a hazard, a
careful command leaves none that has; a command that sends has its bytes delivered, or in flight and alone;
one that does not send delivers nothing and keeps what is in flight. The completion of a transmission in
flight removes it, keeps the others and delivers exactly the bytes handed over; that the completion of one
that is not in flight does nothing is the model's form (log 5). -/
def Obligations.CarefulHostGetsWhatItSent : Prop :=
  (∀ (i : Instr) (s t : State), Inv s → CleanTxq s → Careful i s → exec i s = .next t →
    CleanTxq t ∧
    (t.txSerial = s.txSerial → t.strip = s.strip ∧ SameInFlight s.txq t.txq) ∧
    (t.txSerial ≠ s.txSerial →
      (t.strip = s.strip ++ [⟨s.txSerial, bufBytes t⟩] ∧ t.txq = []) ∨
      (t.strip = s.strip ∧ SameInFlight [⟨s.txSerial, bufBytes t, false, false, false⟩] t.txq))) ∧
  (∀ (s : State) (k : Nat), Inv s → CleanTxq s →
    CleanTxq (s.complete k) ∧
    (∀ x ∈ s.txq, x.serial = k → ∃ q, (∀ y, y ∈ q ↔ y ∈ s.txq ∧ y.serial ≠ k) ∧
      s.complete k = { s with txq := q, strip := s.strip ++ [⟨k, x.bytes⟩] }) ∧
    ((∀ x ∈ s.txq, x.serial ≠ k) → s.complete k = s))

/-- The hazards (20_memory.md R61; 70_reset_and_hazards.md R230, R231, R232): a successful command that writes
a byte of BUF races every transmission in flight, a send overlaps it (CB_TURNOFF and DISP_SHIFTR do both),
a release cuts it. A command that fails, one that writes no byte and calls nothing, and a release after the
release leave every transmission in flight as it was. That writing the bytes that were there counts as
writing, and that none completes between the writes and the call of one command, are the model's choices
(log 9, log 22). -/
def Obligations.HazardsAreMarked : Prop :=
  ∀ (i : Instr) (s t : State), Inv s → exec i s = .next t →
    (expectedError i s = none → ∀ x ∈ t.txq, x.serial < s.txSerial →
      (writesBytes i s = true → x.mutated = true) ∧
      (callsTransmitter i = true → i ≠ .cbRelease → x.overlapped = true) ∧
      (i = .cbRelease → s.life ≠ .released → x.cut = true)) ∧
    (expectedError i s ≠ none ∨ (i = .cbRelease ∧ s.life = .released) ∨
      (writesBytes i s = false ∧ callsTransmitter i = false) → t.txq = s.txq)

/-- One profile per session (70_reset_and_hazards.md R226, R227): where the NEW commands carry the attached
transmitter's own durations, the profile BUF is encoded under is always that one. -/
def Obligations.ProfileStaysMatched : Prop :=
  ∀ (i : Instr) (s t : State), ProfileMatches s → (∀ n p, i = .cbNew n p → p = s.params.txDurations) →
    (∀ w h m p, i = .dispNew w h m p → p = s.params.txDurations) → exec i s = .next t → ProfileMatches t

/-- The end of a run (70_reset_and_hazards.md R241): a run that has ended, every word of its sequence offered
and accepted, stays ended, the core at rest unless it is reset; a quiet end stays quiet and nothing more
reaches the strip. That the machine still steps then is the model's form (log 5). -/
def Obligations.EndedRunRests : Prop :=
  ∀ s t : State, Ended s → step s = .next t →
    Ended t ∧ (EndedQuietly s → EndedQuietly t ∧ t.strip = s.strip) ∧
      (s.schedule.head? ≠ some .reset → coreView t = coreView s)

/-- The core cannot see the transmissions in flight (10_state.md R38: "The core has no copy of it, no busy
flag and no way to test it"): states that agree on the core's part, and on whether the next call returns,
give outcomes that agree on the core's part. -/
def Obligations.CoreCannotSeeTheTransmissions : Prop :=
  ∀ (i : Instr) (s s' : State), coreView s = coreView s' → s.callReturns = s'.callReturns →
    SameOutcome coreView (exec i s) (exec i s')

/-- No command reads an unspecified value (10_state.md R36; 93_implementation_defined.md U15): states that
agree on what can be read give outcomes that agree on what can be read. So the values the model gives the
unspecified registers at reset (log 2) show in no response and in no readable state. -/
def Obligations.UnspecifiedValuesCannotBeRead : Prop :=
  ∀ (i : Instr) (s s' : State), readableView s = readableView s' →
    SameOutcome readableView (exec i s) (exec i s')

/-- No computation outgrows its width (00_scope.md R11, R8): strip indexes, row starts and the pixel count
of a Display fit 16 bits, and a slice lies inside the buffer. -/
def Obligations.ArithmeticFitsItsWidths : Prop :=
  (∀ (mode : WiringMode) (x y w h : BitVec 8), x.toNat < w.toNat → y.toNat < h.toNat →
    toStripIndex x.toNat y.toNat w.toNat mode ≤ 65024) ∧
  (∀ w h : BitVec 8, w.toNat * h.toNat ≤ 65025) ∧
  (∀ y rowCount width : BitVec 8, y.toNat < rowCount.toNat → y.toNat * width.toNat ≤ 64770) ∧
  (∀ (s : State) (i : Nat), i < s.n.toNat →
    s.slice i + 96 ≤ s.bufLength ∧ s.bufLength ≤ s.params.headerBytes + 6291360)
end

