-- ==== Sys2Proof/Laws/Decode.lean ====
section
/-! SUPPORT. Laws of the bit fields of a word (30_encoding.md R81 to R83): a field placed and read back, and
fields that do not meet. -/

namespace Sys2Proof

theorem field_getLsbD (w : Word) (lo len i : Nat) :
    (field w lo len).getLsbD i = (decide (i < len) && w.getLsbD (lo + i)) := by
  simp [field]

theorem place_getLsbD {n : Nat} (v : BitVec n) (lo i : Nat) :
    (place v lo).getLsbD i = (decide (i < 64) && decide (lo ≤ i) && v.getLsbD (i - lo)) := by
  unfold place
  by_cases h : i < lo
  · simp [h, show ¬ lo ≤ i by omega]
  · by_cases h2 : i < 64
    · simp [h, h2, show lo ≤ i by omega]
    · simp [h2]

@[simp] theorem field_or (a b : Word) (lo len : Nat) :
    field (a ||| b) lo len = field a lo len ||| field b lo len := by
  apply BitVec.eq_of_getLsbD_eq
  intro i hi
  rw [BitVec.getLsbD_or, field_getLsbD, field_getLsbD, field_getLsbD, BitVec.getLsbD_or,
    Bool.and_or_distrib_left]

/-- A field placed at `lo` is read back at `lo`. -/
theorem field_place_same {n : Nat} (v : BitVec n) (lo : Nat) (h : lo + n ≤ 64) :
    field (place v lo) lo n = v := by
  apply BitVec.eq_of_getLsbD_eq
  intro i hi
  rw [field_getLsbD, place_getLsbD, Nat.add_sub_cancel_left]
  simp only [hi, show lo + i < 64 by omega, Nat.le_add_right, decide_true, Bool.true_and]

/-- A field read where nothing was placed is zero. -/
theorem field_place_other {n : Nat} (v : BitVec n) (at_ lo len : Nat)
    (h : at_ + n ≤ lo ∨ lo + len ≤ at_) : field (place v at_) lo len = 0 := by
  apply BitVec.eq_of_getLsbD_eq
  intro i hi
  rw [field_getLsbD, place_getLsbD]
  by_cases h2 : at_ ≤ lo + i
  · rw [BitVec.getLsbD_of_ge v _ (by omega)]
    simp
  · simp [h2]

/-! ### Words as numbers -/

theorem place_toNat {n : Nat} (v : BitVec n) (lo : Nat) (h : lo + n ≤ 64) :
    (place v lo).toNat = v.toNat * 2 ^ lo := by
  have hv : v.toNat * 2 ^ lo < 2 ^ 64 :=
    calc v.toNat * 2 ^ lo < 2 ^ n * 2 ^ lo := Nat.mul_lt_mul_of_pos_right v.isLt (Nat.two_pow_pos lo)
      _ = 2 ^ (lo + n) := by rw [← Nat.pow_add, Nat.add_comm]
      _ ≤ 2 ^ 64 := Nat.pow_le_pow_right (by omega) h
  have hn : v.toNat < 2 ^ 64 := lt_of_le_of_lt (Nat.le_mul_of_pos_right _ (Nat.two_pow_pos lo)) hv
  unfold place
  rw [BitVec.toNat_shiftLeft, BitVec.toNat_setWidth, Nat.mod_eq_of_lt hn, Nat.shiftLeft_eq,
    Nat.mod_eq_of_lt hv]

/-- A field above a word that does not reach it. -/
theorem place_or_toNat {n : Nat} (v : BitVec n) (lo : Nat) (x : Word) (h : lo + n ≤ 64)
    (hx : x.toNat < 2 ^ lo) : (place v lo ||| x).toNat = v.toNat * 2 ^ lo + x.toNat := by
  rw [BitVec.toNat_or, place_toNat v lo h, ← Nat.shiftLeft_eq, Nat.shiftLeft_add_eq_or_of_lt hx]

/-- The opcode map has no two rows for one opcode (30_encoding.md R84). -/
theorem opcode_ofByte_byte (op : Opcode) : Opcode.ofByte op.byte = some op := by
  cases op <;> rfl

/-- The opcode map has no two opcodes for one byte (30_encoding.md R84). -/
theorem opcode_byte_ofByte {b : Byte} {op : Opcode} (h : Opcode.ofByte b = some op) : b = op.byte := by
  unfold Opcode.ofByte at h
  split at h <;> first
    | cases h; apply BitVec.eq_of_toNat_eq; assumption
    | cases h

/-- Legality of a header in one line (30_encoding.md R85). -/
theorem headerOpcode_ok_iff (w : Word) (op : Opcode) :
    headerOpcode w = .ok op ↔ opcodeOf w = op.byte ∧ field w op.rsv.1 op.rsv.2 = 0 := by
  unfold headerOpcode
  cases h : Opcode.ofByte (opcodeOf w) with
  | none =>
    refine ⟨fun e => (by cases e), fun e => ?_⟩
    rw [e.1, opcode_ofByte_byte] at h
    cases h
  | some o =>
    have hb := opcode_byte_ofByte h
    simp only
    split
    · next h0 =>
      refine ⟨fun e => (by cases e; exact ⟨hb, h0⟩), fun e => ?_⟩
      rw [e.1, opcode_ofByte_byte] at h
      cases h
      rfl
    · next h0 =>
      refine ⟨fun e => (by cases e), fun e => ?_⟩
      rw [e.1, opcode_ofByte_byte] at h
      cases h
      exact absurd e.2 h0

/-- Everything the decoder answers with a command. -/
theorem decode_ok_iff (w : Word) (payload : List Word) (i : Instr) :
    decode w payload = .ok i ↔
      ∃ op, headerOpcode w = .ok op ∧ payload.length = payloadCount w ∧ i = operands op w payload := by
  unfold decode
  cases headerOpcode w with
  | error e => simp
  | ok op =>
    simp only
    split
    · next h => simp [h, eq_comm]
    · next h => simp [h]

/-! ### The payload of `CB_SETALL` -/

theorem acceptPayload_clean {w : Word} (h : field w 24 40 = 0) (acc : List Color × Bool) :
    acceptPayload acc w = (acc.1 ++ [colorField w], acc.2) := if_pos h

theorem acceptPayload_bad {w : Word} (h : field w 24 40 ≠ 0) (acc : List Color × Bool) :
    acceptPayload acc w = (acc.1, true) := if_neg h

@[simp] theorem colorField_colorWord (c : Color) : colorField (colorWord c) = c := by
  simp [colorField, colorWord, field_place_same, field_place_other]

theorem colorWord_clean (c : Color) : field (colorWord c) 24 40 = 0 := by
  simp [colorWord, field_place_other]

theorem malformedWord_bad : field malformedWord 24 40 ≠ 0 := by decide

/-- Clean payload words append their colours in order (30_encoding.md R96). -/
theorem foldl_acceptPayload_colors (cs : List Color) (acc : List Color × Bool) :
    (cs.map colorWord).foldl acceptPayload acc = (acc.1 ++ cs, acc.2) := by
  induction cs generalizing acc with
  | nil => simp
  | cons c cs ih =>
    rw [List.map_cons, List.foldl_cons, acceptPayload_clean (colorWord_clean c), ih]
    simp

/-- Malformed payload words append nothing and set the mark (30_encoding.md R96). -/
theorem foldl_acceptPayload_malformed (k : Nat) (acc : List Color × Bool) :
    (List.replicate k malformedWord).foldl acceptPayload acc = (acc.1, acc.2 || decide (0 < k)) := by
  induction k generalizing acc with
  | zero => simp
  | succ k ih =>
    rw [List.replicate_succ, List.foldl_cons, acceptPayload_bad malformedWord_bad, ih]
    simp

/-- How many colours a payload gives: one a word where no word is malformed, fewer otherwise. -/
theorem foldl_acceptPayload_length (ws : List Word) (acc : List Color × Bool) :
    ((ws.foldl acceptPayload acc).2 = false →
      acc.2 = false ∧ (ws.foldl acceptPayload acc).1.length = acc.1.length + ws.length) ∧
    ((ws.foldl acceptPayload acc).2 = true →
      (ws.foldl acceptPayload acc).1.length + (if acc.2 then 0 else 1) ≤ acc.1.length + ws.length) := by
  induction ws generalizing acc with
  | nil => cases h : acc.2 <;> simp [h]
  | cons w ws ih =>
    rw [List.foldl_cons]
    by_cases h : field w 24 40 = 0
    · have := ih (acceptPayload acc w)
      rw [acceptPayload_clean h] at this ⊢
      simp only [List.length_append, List.length_cons, List.length_nil] at this ⊢
      exact ⟨fun e => ⟨(this.1 e).1, by have := (this.1 e).2; omega⟩, fun e => by have := this.2 e; omega⟩
    · have := ih (acceptPayload acc w)
      rw [acceptPayload_bad h] at this ⊢
      simp only [List.length_cons] at this ⊢
      refine ⟨fun e => absurd (this.1 e).1 (by simp), fun e => ?_⟩
      have := this.2 e
      simp only [if_true] at this
      split <;> omega

end Sys2Proof
end

