-- ==== Sys2Proof/Laws/Rotate.lean ====
section
/-! SUPPORT. Laws of the rotation of a sequence (20_memory.md R55; 41_command_buffer.md R128 to R130). -/

namespace Sys2Proof.Machine

variable {α : Type}

@[simp] theorem rotateRight_length (xs : List α) (k : Nat) : (rotateRight xs k).length = xs.length := by
  simp [rotateRight]

@[simp] theorem rotateLeft_length {xs : List α} {k : Nat} : (rotateLeft xs k).length = xs.length := by
  simp [rotateLeft]; omega

@[simp] theorem rotate_length (dir : Direction) (xs : List α) (k : Nat) :
    (rotate dir xs k).length = xs.length := by
  cases dir <;> simp [rotate]

/-- "content moves toward higher index": element `j` goes to `(j + k) mod length` (20_memory.md R55). -/
theorem rotateRight_getElem? (xs : List α) {k j : Nat} (hk : k ≤ xs.length) (hj : j < xs.length) :
    (rotateRight xs k)[(j + k) % xs.length]? = xs[j]? := by
  unfold rotateRight
  have hd : (xs.drop (xs.length - k)).length = k := by simp; omega
  by_cases h : j + k < xs.length
  · rw [Nat.mod_eq_of_lt h, List.getElem?_append_right (by omega), hd,
      Nat.add_sub_cancel, List.getElem?_take_of_lt (by omega)]
  · rw [Nat.mod_eq_sub_mod (by omega), Nat.mod_eq_of_lt (by omega),
      List.getElem?_append_left (by omega), List.getElem?_drop]
    congr 1
    omega

/-- "content moves toward lower index": element `(j + k) mod length` goes to `j` (20_memory.md R55). -/
theorem rotateLeft_getElem? (xs : List α) {k j : Nat} (hk : k ≤ xs.length) (hj : j < xs.length) :
    (rotateLeft xs k)[j]? = xs[(j + k) % xs.length]? := by
  unfold rotateLeft
  have hd : (xs.drop k).length = xs.length - k := by simp
  by_cases h : j + k < xs.length
  · rw [Nat.mod_eq_of_lt h, List.getElem?_append_left (by omega), List.getElem?_drop, Nat.add_comm]
  · rw [Nat.mod_eq_sub_mod (by omega), Nat.mod_eq_of_lt (by omega),
      List.getElem?_append_right (by omega), List.getElem?_take_of_lt (by omega)]
    congr 1
    omega

/-- Left by `k` is Right by `length - k` (41_command_buffer.md R130 (b)). -/
theorem rotateLeft_eq_rotateRight (xs : List α) {k : Nat} (hk : k ≤ xs.length) :
    rotateLeft xs k = rotateRight xs (xs.length - k) := by
  unfold rotateLeft rotateRight
  rw [Nat.sub_sub_self hk]

/-- Right then Left restores the sequence (41_command_buffer.md R130 (a)). -/
theorem rotateLeft_rotateRight (xs : List α) {k : Nat} (hk : k ≤ xs.length) :
    rotateLeft (rotateRight xs k) k = xs := by
  unfold rotateLeft rotateRight
  have hd : (xs.drop (xs.length - k)).length = k := by simp; omega
  rw [List.drop_left' hd, List.take_left' hd, List.take_append_drop]

/-- Left then Right restores the sequence (41_command_buffer.md R130 (a)). -/
theorem rotateRight_rotateLeft (xs : List α) (k : Nat) :
    rotateRight (rotateLeft xs k) k = xs := by
  have hl : (rotateLeft xs k).length = xs.length := rotateLeft_length
  unfold rotateRight
  rw [hl]
  unfold rotateLeft
  have hd : (xs.drop k).length = xs.length - k := by simp
  rw [List.drop_left' hd, List.take_left' hd, List.take_append_drop]

/-- A rotation permutes its elements (41_command_buffer.md R130 (d)). -/
theorem rotate_perm (dir : Direction) (xs : List α) (k : Nat) : (rotate dir xs k).Perm xs := by
  cases dir
  · refine List.perm_append_comm.trans ?_
    rw [List.take_append_drop]
  · refine List.perm_append_comm.trans ?_
    rw [List.take_append_drop]

/-- A sequence of blocks of one length: taking and dropping whole blocks. -/
theorem drop_flatMap_blocks {β : Type} (f : α → List β) (b : Nat) (hf : ∀ x, (f x).length = b)
    (xs : List α) (k : Nat) : (xs.flatMap f).drop (b * k) = (xs.drop k).flatMap f := by
  induction xs generalizing k with
  | nil => simp
  | cons x xs ih =>
    cases k with
    | zero => simp
    | succ k =>
      rw [List.flatMap_cons, List.drop_succ_cons, ← ih k,
        show b * (k + 1) = (f x).length + b * k by rw [hf]; ring, List.drop_append]
      simp

theorem take_flatMap_blocks {β : Type} (f : α → List β) (b : Nat) (hf : ∀ x, (f x).length = b)
    (xs : List α) (k : Nat) : (xs.flatMap f).take (b * k) = (xs.take k).flatMap f := by
  induction xs generalizing k with
  | nil => simp
  | cons x xs ih =>
    cases k with
    | zero => simp
    | succ k =>
      rw [List.flatMap_cons, List.take_succ_cons, List.flatMap_cons, ← ih k,
        show b * (k + 1) = (f x).length + b * k by rw [hf]; ring, List.take_append]
      simp

theorem length_flatMap_blocks {β : Type} (f : α → List β) (b : Nat) (hf : ∀ x, (f x).length = b)
    (xs : List α) : (xs.flatMap f).length = b * xs.length := by
  induction xs with
  | nil => simp
  | cons x xs ih => simp [ih, hf]; ring

/-- Rotating the bytes by whole blocks is rotating the blocks (10_state.md R32: INV3 "lets the shift
commands move slices using pure byte-range moves"). -/
theorem rotate_flatMap_blocks {β : Type} (f : α → List β) (b : Nat) (hf : ∀ x, (f x).length = b)
    (dir : Direction) (xs : List α) (k : Nat) :
    rotate dir (xs.flatMap f) (b * k) = (rotate dir xs k).flatMap f := by
  cases dir
  · simp only [rotate, rotateRight, length_flatMap_blocks f b hf, ← Nat.mul_sub, List.flatMap_append,
      drop_flatMap_blocks f b hf, take_flatMap_blocks f b hf]
  · simp only [rotate, rotateLeft, List.flatMap_append, drop_flatMap_blocks f b hf,
      take_flatMap_blocks f b hf]

/-! ### Replacing a range -/

@[simp] theorem splice_length (xs : List α) (a : Nat) (ys : List α) (h : a + ys.length ≤ xs.length) :
    (splice xs a ys).length = xs.length := by
  simp [splice]; omega

/-- An element of a sequence with a range replaced. -/
theorem splice_getElem? (xs : List α) (a : Nat) (ys : List α) (h : a + ys.length ≤ xs.length) (k : Nat) :
    (splice xs a ys)[k]? = if a ≤ k ∧ k < a + ys.length then ys[k - a]? else xs[k]? := by
  unfold splice
  have ht : (xs.take a).length = a := by simp; omega
  by_cases h1 : a ≤ k
  · by_cases h2 : k < a + ys.length
    · rw [List.getElem?_append_left (by simp; omega), List.getElem?_append_right (by omega), ht]
      simp [h1, h2]
    · rw [List.getElem?_append_right (by simp; omega), List.getElem?_drop]
      simp only [h1, h2, and_false, if_false]
      congr 1
      simp
      omega
  · rw [List.getElem?_append_left (by simp; omega), List.getElem?_append_left (by omega),
      List.getElem?_take_of_lt (by omega)]
    simp [h1]

/-- Replacing one element. -/
theorem splice_singleton (xs : List α) (a : Nat) (y : α) (h : a < xs.length) :
    splice xs a [y] = xs.set a y := by
  apply List.ext_getElem?
  intro k
  rw [splice_getElem? xs a [y] (by simpa using h), List.getElem?_set]
  by_cases hk : a = k
  · subst hk; simp [h]
  · simp only [List.length_singleton, hk, if_false]
    rw [if_neg (by omega)]

/-- Replacing the whole sequence. -/
theorem splice_all (xs ys : List α) (h : ys.length = xs.length) : splice xs 0 ys = ys := by
  simp [splice, h]

/-- Replacing the beginning of a sequence. -/
theorem splice_zero (xs ys : List α) : splice xs 0 ys = ys ++ xs.drop ys.length := by
  simp [splice]

/-- Replacing a range twice: the second replacement stands. -/
theorem splice_splice (xs : List α) (a : Nat) (ys zs : List α) (h : a + ys.length ≤ xs.length)
    (hl : zs.length = ys.length) : splice (splice xs a ys) a zs = splice xs a zs := by
  apply List.ext_getElem?
  intro k
  rw [splice_getElem? _ a zs (by rw [splice_length xs a ys h]; omega), splice_getElem? xs a zs (by omega),
    splice_getElem? xs a ys h]
  split
  · rfl
  · rw [if_neg (by omega)]

/-- The range that was put in. -/
theorem splice_range (xs : List α) (a : Nat) (ys : List α) (h : a + ys.length ≤ xs.length) :
    ((splice xs a ys).drop a).take ys.length = ys := by
  have ht : (xs.take a).length = a := by simp; omega
  unfold splice
  rw [List.append_assoc, List.drop_append_of_le_length (by omega), List.drop_of_length_le (by omega),
    List.nil_append, List.take_append_of_le_length (by omega), List.take_of_length_le (by omega)]

/-- Putting back the range that is there changes nothing. -/
theorem splice_self (xs : List α) (a n : Nat) (h : a + n ≤ xs.length) :
    splice xs a ((xs.drop a).take n) = xs := by
  have hl : ((xs.drop a).take n).length = n := by simp; omega
  unfold splice
  rw [hl, List.append_assoc, ← List.drop_drop, List.take_append_drop, List.take_append_drop]

end Sys2Proof.Machine
end

