-- ==== Sys2Proof/Laws/Memory.lean ====
section
/-! SUPPORT. Laws of the bytes of BUF: the canonical form is kept, a read after a write, and the form an
array has (20_memory.md R50, R55, R56). -/

namespace Sys2Proof.Machine

namespace Memory

/-! ### Cells of a byte sequence -/

@[simp] theorem cellsAt_nil (a : Nat) : cellsAt a [] = [] := rfl

@[simp] theorem cellsAt_cons (a : Nat) (b : Byte) (bs : List Byte) :
    cellsAt a (b :: bs) = (a, b) :: cellsAt (a + 1) bs := rfl

@[simp] theorem cellsAt_map_snd (a : Nat) (v : List Byte) : (cellsAt a v).map Prod.snd = v := by
  induction v generalizing a with
  | nil => rfl
  | cons b bs ih => simp [ih]

@[simp] theorem cellsAt_length (a : Nat) (v : List Byte) : (cellsAt a v).length = v.length := by
  rw [← List.length_map (as := cellsAt a v) Prod.snd, cellsAt_map_snd]

theorem cellsAt_map_fst (a : Nat) (v : List Byte) :
    (cellsAt a v).map Prod.fst = List.range' a v.length := by
  induction v generalizing a with
  | nil => rfl
  | cons b bs ih => simp [ih, List.range'_succ]

theorem cellsAt_append (a : Nat) (u v : List Byte) :
    cellsAt a (u ++ v) = cellsAt a u ++ cellsAt (a + u.length) v := by
  induction u generalizing a with
  | nil => simp
  | cons b bs ih => simp [ih, Nat.add_assoc, Nat.add_comm 1]

theorem mem_cellsAt_bounds {a : Nat} {v : List Byte} {c : Host.Cell} (h : c ∈ cellsAt a v) :
    a ≤ c.1 ∧ c.1 < a + v.length := by
  have : c.1 ∈ (cellsAt a v).map Prod.fst := List.mem_map_of_mem h
  rw [cellsAt_map_fst] at this
  simpa using this

theorem filter_cellsAt_true {a : Nat} {v : List Byte} {p : Host.Cell → Bool}
    (h : ∀ k, a ≤ k → k < a + v.length → ∀ b, p (k, b) = true) :
    (cellsAt a v).filter p = cellsAt a v :=
  List.filter_eq_self.2 fun c hc => h c.1 (mem_cellsAt_bounds hc).1 (mem_cellsAt_bounds hc).2 c.2

theorem filter_cellsAt_false {a : Nat} {v : List Byte} {p : Host.Cell → Bool}
    (h : ∀ k, a ≤ k → k < a + v.length → ∀ b, p (k, b) = false) :
    (cellsAt a v).filter p = [] :=
  List.filter_eq_nil_iff.2 fun c hc => by
    simp [h c.1 (mem_cellsAt_bounds hc).1 (mem_cellsAt_bounds hc).2 c.2]

/-! ### The canonical form -/

theorem wf_iff_map_fst (m : Memory) : m.wf ↔ (m.map Prod.fst).Pairwise (· < ·) := by
  simp [Memory.wf, List.pairwise_map]

theorem wf_cellsAt (a : Nat) (v : List Byte) : (cellsAt a v).wf := by
  rw [wf_iff_map_fst, cellsAt_map_fst]
  exact List.pairwise_lt_range'

/-- Every write keeps the canonical form. -/
theorem writeBytes_wf {m : Memory} (h : m.wf) (a : Nat) (v : List Byte) : (m.writeBytes a v).wf := by
  unfold Memory.wf writeBytes
  simp only [List.append_assoc, List.pairwise_append, List.mem_append, List.mem_filter,
    decide_eq_true_eq]
  refine ⟨h.filter _, ⟨wf_cellsAt a v, h.filter _, ?_⟩, ?_⟩
  · intro c hc d hd
    have := mem_cellsAt_bounds hc
    omega
  · rintro c ⟨-, hc⟩ d (hd | ⟨-, hd⟩)
    · have := mem_cellsAt_bounds hd
      omega
    · omega

/-- A new array is in canonical form. -/
theorem newArray_wf (len : Nat) : (newArray len).wf := wf_cellsAt _ _

/-! ### Reading one byte -/

theorem lookup_filter {m : Memory} {p : Nat → Bool} {k : Nat} (h : p k = true) :
    (m.filter fun c => p c.1).lookup k = m.lookup k := by
  induction m with
  | nil => rfl
  | cons c m ih =>
    obtain ⟨j, b⟩ := c
    by_cases hj : k = j
    · subst hj; simp [h]
    · have hk : (k == j) = false := by simpa using hj
      by_cases hp : p j = true <;> simp [hp, List.lookup_cons, hk, ih]

theorem lookup_eq_none_of_keys {m : Memory} {k : Nat} (h : ∀ c ∈ m, c.1 ≠ k) : m.lookup k = none := by
  induction m with
  | nil => rfl
  | cons c m ih =>
    have hc : (k == c.1) = false := by simpa using Ne.symm (h c (by simp))
    have := ih fun d hd => h d (by simp [hd])
    obtain ⟨j, b⟩ := c
    simp [List.lookup_cons, hc, this]

theorem read_cellsAt (a : Nat) (v : List Byte) (k : Nat) :
    read (cellsAt a v) k = if a ≤ k then v[k - a]? else none := by
  induction v generalizing a with
  | nil => simp [read]
  | cons b bs ih =>
    have ih' := ih (a + 1)
    unfold read at ih' ⊢
    by_cases h : k = a
    · subst h; simp
    · have hk : (k == a) = false := by simpa using h
      rw [cellsAt_cons, List.lookup_cons, hk]
      simp only [ih']
      by_cases h1 : a ≤ k
      · obtain ⟨d, rfl⟩ := Nat.exists_eq_add_of_le h1
        obtain ⟨e, rfl⟩ : ∃ e, d = e + 1 := ⟨d - 1, by omega⟩
        have : a + (e + 1) - (a + 1) = e := by omega
        simp [this]
      · have h2 : ¬ a + 1 ≤ k := by omega
        simp [h1, h2]

/-- A byte after a write: the byte written where the write reaches, the byte before elsewhere. -/
theorem read_writeBytes (m : Memory) (a : Nat) (v : List Byte) (k : Nat) :
    (m.writeBytes a v).read k =
      if a ≤ k ∧ k < a + v.length then v[k - a]? else m.read k := by
  have h2 := read_cellsAt a v k
  unfold read at h2 ⊢
  unfold writeBytes
  rw [List.lookup_append, List.lookup_append, h2]
  by_cases hlo : a ≤ k
  · have n1 : (m.filter fun c => decide (c.1 < a)).lookup k = none :=
      lookup_eq_none_of_keys fun c hc => by
        have := (List.mem_filter.1 hc).2
        simp at this; omega
    by_cases hhi : k < a + v.length
    · have hv : k - a < v.length := by omega
      simp [n1, hlo, hhi, hv]
    · have hv : v[k - a]? = none := List.getElem?_eq_none (by omega)
      have h3 := lookup_filter (m := m) (p := fun j => decide (a + v.length ≤ j)) (k := k)
        (by simpa using by omega)
      simp only [n1, hlo, hhi, hv, h3]
      simp
  · have h1 := lookup_filter (m := m) (p := fun j => decide (j < a)) (k := k) (by simpa using by omega)
    have n3 : (m.filter fun c => decide (a + v.length ≤ c.1)).lookup k = none :=
      lookup_eq_none_of_keys fun c hc => by
        have := (List.mem_filter.1 hc).2
        simp at this; omega
    simp only [h1, n3, hlo]
    simp

/-! ### The array form -/

/-- A memory whose offsets are `0 .. L-1` is the array of its bytes. -/
theorem eq_cellsAt_of_map_fst {m : Memory} {a L : Nat} (h : m.map Prod.fst = List.range' a L) :
    m = cellsAt a (m.map Prod.snd) := by
  induction m generalizing a L with
  | nil => rfl
  | cons c m ih =>
    obtain ⟨j, b⟩ := c
    cases L with
    | zero => simp at h
    | succ L =>
      rw [List.range'_succ] at h
      simp only [List.map_cons, List.cons.injEq] at h
      obtain ⟨h1, h2⟩ := h
      simp only [List.map_cons, cellsAt_cons]
      rw [← ih h2, h1]

/-- Splitting an array at an offset. -/
theorem cellsAt_split (v : List Byte) (a : Nat) (h : a ≤ v.length) :
    cellsAt 0 v = cellsAt 0 (v.take a) ++ cellsAt a (v.drop a) := by
  conv_lhs => rw [← List.take_append_drop a v, cellsAt_append]
  simp [h]

/-- `MemRead` of an array is a range of its bytes. -/
theorem readBytes_cellsAt (v : List Byte) (a n : Nat) :
    readBytes (cellsAt 0 v) a n = (v.drop a).take n := by
  by_cases ha : a ≤ v.length
  · have h1 := cellsAt_split v a ha
    have hl : (v.take a).length = a := by simp [ha]
    have hd : (v.drop a).length = v.length - a := by simp
    unfold readBytes
    rw [h1, List.filter_append, filter_cellsAt_false (by intro k _ hk b; simp; omega), List.nil_append]
    by_cases hn : n ≤ v.length - a
    · have hs : cellsAt a (v.drop a) =
          cellsAt a ((v.drop a).take n) ++ cellsAt (a + n) ((v.drop a).drop n) := by
        conv_lhs => rw [← List.take_append_drop n (v.drop a), cellsAt_append]
        simp [hn]
      have hlt : ((v.drop a).take n).length = n := by simp [hn]
      rw [hs, List.filter_append, filter_cellsAt_true (by intro k h1 h2 b; simp; omega),
        filter_cellsAt_false (by intro k h1 h2 b; simp; omega)]
      simp
    · rw [filter_cellsAt_true (by intro k h1 h2 b; simp; omega)]
      simp [List.take_of_length_le (show (v.drop a).length ≤ n by omega)]
  · unfold readBytes
    rw [filter_cellsAt_false (by intro k h1 h2 b; simp; omega)]
    simp [List.drop_of_length_le (show v.length ≤ a by omega)]

/-- `MemWrite` inside an array replaces a range of its bytes. -/
theorem writeBytes_cellsAt (v : List Byte) (a : Nat) (u : List Byte) (h : a + u.length ≤ v.length) :
    writeBytes (cellsAt 0 v) a u = cellsAt 0 (splice v a u) := by
  have ha : a ≤ v.length := by omega
  have hl : (v.take a).length = a := by simp [ha]
  have e1 : (cellsAt 0 v).filter (fun c => decide (c.1 < a)) = cellsAt 0 (v.take a) := by
    rw [cellsAt_split v a ha, List.filter_append,
      filter_cellsAt_true (by intro k h1 h2 b; simp; omega),
      filter_cellsAt_false (by intro k h1 h2 b; simp; omega), List.append_nil]
  have hl2 : (v.take (a + u.length)).length = a + u.length := by simp [h]
  have e2 : (cellsAt 0 v).filter (fun c => decide (a + u.length ≤ c.1)) =
      cellsAt (a + u.length) (v.drop (a + u.length)) := by
    rw [cellsAt_split v (a + u.length) h, List.filter_append,
      filter_cellsAt_false (by intro k h1 h2 b; simp; omega),
      filter_cellsAt_true (by intro k h1 h2 b; simp; omega), List.nil_append]
  unfold writeBytes splice
  rw [e1, e2, cellsAt_append, cellsAt_append]
  simp [ha]

/-- One byte of an array. -/
theorem read_array (v : List Byte) (k : Nat) : read (cellsAt 0 v) k = v[k]? := by
  simp [read_cellsAt]

end Memory

end Sys2Proof.Machine
end

