-- ==== Sys2Proof/Laws/State.lean ====
section
/-! SUPPORT. One lemma per field for each named update of the state, so that no proof unfolds a record
update. -/

namespace Sys2Proof.Machine

/-! ### setLife: LIFE -/

@[simp] theorem setLife_params (s : State) (l : Life) : (s.setLife l).params = s.params := rfl
@[simp] theorem setLife_life (s : State) (l : Life) : (s.setLife l).life = l := rfl
@[simp] theorem setLife_n (s : State) (l : Life) : (s.setLife l).n = s.n := rfl
@[simp] theorem setLife_tp (s : State) (l : Life) : (s.setLife l).tp = s.tp := rfl
@[simp] theorem setLife_w (s : State) (l : Life) : (s.setLife l).w = s.w := rfl
@[simp] theorem setLife_h (s : State) (l : Life) : (s.setLife l).h = s.h := rfl
@[simp] theorem setLife_mode (s : State) (l : Life) : (s.setLife l).mode = s.mode := rfl
@[simp] theorem setLife_buf (s : State) (l : Life) : (s.setLife l).buf = s.buf := rfl
@[simp] theorem setLife_pix (s : State) (l : Life) : (s.setLife l).pix = s.pix := rfl
@[simp] theorem setLife_grid (s : State) (l : Life) : (s.setLife l).grid = s.grid := rfl
@[simp] theorem setLife_dec (s : State) (l : Life) : (s.setLife l).dec = s.dec := rfl
@[simp] theorem setLife_rsp (s : State) (l : Life) : (s.setLife l).rsp = s.rsp := rfl
@[simp] theorem setLife_txCall (s : State) (l : Life) : (s.setLife l).txCall = s.txCall := rfl
@[simp] theorem setLife_cmd (s : State) (l : Life) : (s.setLife l).cmd = s.cmd := rfl
@[simp] theorem setLife_rspReady (s : State) (l : Life) : (s.setLife l).rspReady = s.rspReady := rfl
@[simp] theorem setLife_taken (s : State) (l : Life) : (s.setLife l).taken = s.taken := rfl
@[simp] theorem setLife_txq (s : State) (l : Life) : (s.setLife l).txq = s.txq := rfl
@[simp] theorem setLife_txSerial (s : State) (l : Life) : (s.setLife l).txSerial = s.txSerial := rfl
@[simp] theorem setLife_txPlan (s : State) (l : Life) : (s.setLife l).txPlan = s.txPlan := rfl
@[simp] theorem setLife_txCalls (s : State) (l : Life) : (s.setLife l).txCalls = s.txCalls := rfl
@[simp] theorem setLife_strip (s : State) (l : Life) : (s.setLife l).strip = s.strip := rfl
@[simp] theorem setLife_schedule (s : State) (l : Life) : (s.setLife l).schedule = s.schedule := rfl

/-! ### setSession: N and TP -/

@[simp] theorem setSession_params (s : State) (n : BitVec 16) (t : TimingProfile) :
    (s.setSession n t).params = s.params := rfl
@[simp] theorem setSession_life (s : State) (n : BitVec 16) (t : TimingProfile) :
    (s.setSession n t).life = s.life := rfl
@[simp] theorem setSession_n (s : State) (n : BitVec 16) (t : TimingProfile) :
    (s.setSession n t).n = n := rfl
@[simp] theorem setSession_tp (s : State) (n : BitVec 16) (t : TimingProfile) :
    (s.setSession n t).tp = t := rfl
@[simp] theorem setSession_w (s : State) (n : BitVec 16) (t : TimingProfile) :
    (s.setSession n t).w = s.w := rfl
@[simp] theorem setSession_h (s : State) (n : BitVec 16) (t : TimingProfile) :
    (s.setSession n t).h = s.h := rfl
@[simp] theorem setSession_mode (s : State) (n : BitVec 16) (t : TimingProfile) :
    (s.setSession n t).mode = s.mode := rfl
@[simp] theorem setSession_buf (s : State) (n : BitVec 16) (t : TimingProfile) :
    (s.setSession n t).buf = s.buf := rfl
@[simp] theorem setSession_pix (s : State) (n : BitVec 16) (t : TimingProfile) :
    (s.setSession n t).pix = s.pix := rfl
@[simp] theorem setSession_grid (s : State) (n : BitVec 16) (t : TimingProfile) :
    (s.setSession n t).grid = s.grid := rfl
@[simp] theorem setSession_dec (s : State) (n : BitVec 16) (t : TimingProfile) :
    (s.setSession n t).dec = s.dec := rfl
@[simp] theorem setSession_rsp (s : State) (n : BitVec 16) (t : TimingProfile) :
    (s.setSession n t).rsp = s.rsp := rfl
@[simp] theorem setSession_txCall (s : State) (n : BitVec 16) (t : TimingProfile) :
    (s.setSession n t).txCall = s.txCall := rfl
@[simp] theorem setSession_cmd (s : State) (n : BitVec 16) (t : TimingProfile) :
    (s.setSession n t).cmd = s.cmd := rfl
@[simp] theorem setSession_rspReady (s : State) (n : BitVec 16) (t : TimingProfile) :
    (s.setSession n t).rspReady = s.rspReady := rfl
@[simp] theorem setSession_taken (s : State) (n : BitVec 16) (t : TimingProfile) :
    (s.setSession n t).taken = s.taken := rfl
@[simp] theorem setSession_txq (s : State) (n : BitVec 16) (t : TimingProfile) :
    (s.setSession n t).txq = s.txq := rfl
@[simp] theorem setSession_txSerial (s : State) (n : BitVec 16) (t : TimingProfile) :
    (s.setSession n t).txSerial = s.txSerial := rfl
@[simp] theorem setSession_txPlan (s : State) (n : BitVec 16) (t : TimingProfile) :
    (s.setSession n t).txPlan = s.txPlan := rfl
@[simp] theorem setSession_txCalls (s : State) (n : BitVec 16) (t : TimingProfile) :
    (s.setSession n t).txCalls = s.txCalls := rfl
@[simp] theorem setSession_strip (s : State) (n : BitVec 16) (t : TimingProfile) :
    (s.setSession n t).strip = s.strip := rfl
@[simp] theorem setSession_schedule (s : State) (n : BitVec 16) (t : TimingProfile) :
    (s.setSession n t).schedule = s.schedule := rfl

/-! ### setGeometry: W, H and MODE -/

@[simp] theorem setGeometry_params (s : State) (w h m : BitVec 8) :
    (s.setGeometry w h m).params = s.params := rfl
@[simp] theorem setGeometry_life (s : State) (w h m : BitVec 8) :
    (s.setGeometry w h m).life = s.life := rfl
@[simp] theorem setGeometry_n (s : State) (w h m : BitVec 8) : (s.setGeometry w h m).n = s.n := rfl
@[simp] theorem setGeometry_tp (s : State) (w h m : BitVec 8) :
    (s.setGeometry w h m).tp = s.tp := rfl
@[simp] theorem setGeometry_w (s : State) (w h m : BitVec 8) : (s.setGeometry w h m).w = w := rfl
@[simp] theorem setGeometry_h (s : State) (w h m : BitVec 8) : (s.setGeometry w h m).h = h := rfl
@[simp] theorem setGeometry_mode (s : State) (w h m : BitVec 8) :
    (s.setGeometry w h m).mode = m := rfl
@[simp] theorem setGeometry_buf (s : State) (w h m : BitVec 8) :
    (s.setGeometry w h m).buf = s.buf := rfl
@[simp] theorem setGeometry_pix (s : State) (w h m : BitVec 8) :
    (s.setGeometry w h m).pix = s.pix := rfl
@[simp] theorem setGeometry_grid (s : State) (w h m : BitVec 8) :
    (s.setGeometry w h m).grid = s.grid := rfl
@[simp] theorem setGeometry_dec (s : State) (w h m : BitVec 8) :
    (s.setGeometry w h m).dec = s.dec := rfl
@[simp] theorem setGeometry_rsp (s : State) (w h m : BitVec 8) :
    (s.setGeometry w h m).rsp = s.rsp := rfl
@[simp] theorem setGeometry_txCall (s : State) (w h m : BitVec 8) :
    (s.setGeometry w h m).txCall = s.txCall := rfl
@[simp] theorem setGeometry_cmd (s : State) (w h m : BitVec 8) :
    (s.setGeometry w h m).cmd = s.cmd := rfl
@[simp] theorem setGeometry_rspReady (s : State) (w h m : BitVec 8) :
    (s.setGeometry w h m).rspReady = s.rspReady := rfl
@[simp] theorem setGeometry_taken (s : State) (w h m : BitVec 8) :
    (s.setGeometry w h m).taken = s.taken := rfl
@[simp] theorem setGeometry_txq (s : State) (w h m : BitVec 8) :
    (s.setGeometry w h m).txq = s.txq := rfl
@[simp] theorem setGeometry_txSerial (s : State) (w h m : BitVec 8) :
    (s.setGeometry w h m).txSerial = s.txSerial := rfl
@[simp] theorem setGeometry_txPlan (s : State) (w h m : BitVec 8) :
    (s.setGeometry w h m).txPlan = s.txPlan := rfl
@[simp] theorem setGeometry_txCalls (s : State) (w h m : BitVec 8) :
    (s.setGeometry w h m).txCalls = s.txCalls := rfl
@[simp] theorem setGeometry_strip (s : State) (w h m : BitVec 8) :
    (s.setGeometry w h m).strip = s.strip := rfl
@[simp] theorem setGeometry_schedule (s : State) (w h m : BitVec 8) :
    (s.setGeometry w h m).schedule = s.schedule := rfl

/-! ### setBuf: BUF -/

@[simp] theorem setBuf_params (s : State) (m : Memory) : (s.setBuf m).params = s.params := rfl
@[simp] theorem setBuf_life (s : State) (m : Memory) : (s.setBuf m).life = s.life := rfl
@[simp] theorem setBuf_n (s : State) (m : Memory) : (s.setBuf m).n = s.n := rfl
@[simp] theorem setBuf_tp (s : State) (m : Memory) : (s.setBuf m).tp = s.tp := rfl
@[simp] theorem setBuf_w (s : State) (m : Memory) : (s.setBuf m).w = s.w := rfl
@[simp] theorem setBuf_h (s : State) (m : Memory) : (s.setBuf m).h = s.h := rfl
@[simp] theorem setBuf_mode (s : State) (m : Memory) : (s.setBuf m).mode = s.mode := rfl
@[simp] theorem setBuf_buf (s : State) (m : Memory) : (s.setBuf m).buf = m := rfl
@[simp] theorem setBuf_pix (s : State) (m : Memory) : (s.setBuf m).pix = s.pix := rfl
@[simp] theorem setBuf_grid (s : State) (m : Memory) : (s.setBuf m).grid = s.grid := rfl
@[simp] theorem setBuf_dec (s : State) (m : Memory) : (s.setBuf m).dec = s.dec := rfl
@[simp] theorem setBuf_rsp (s : State) (m : Memory) : (s.setBuf m).rsp = s.rsp := rfl
@[simp] theorem setBuf_txCall (s : State) (m : Memory) : (s.setBuf m).txCall = s.txCall := rfl
@[simp] theorem setBuf_cmd (s : State) (m : Memory) : (s.setBuf m).cmd = s.cmd := rfl
@[simp] theorem setBuf_rspReady (s : State) (m : Memory) : (s.setBuf m).rspReady = s.rspReady := rfl
@[simp] theorem setBuf_taken (s : State) (m : Memory) : (s.setBuf m).taken = s.taken := rfl
@[simp] theorem setBuf_txq (s : State) (m : Memory) : (s.setBuf m).txq = s.txq := rfl
@[simp] theorem setBuf_txSerial (s : State) (m : Memory) : (s.setBuf m).txSerial = s.txSerial := rfl
@[simp] theorem setBuf_txPlan (s : State) (m : Memory) : (s.setBuf m).txPlan = s.txPlan := rfl
@[simp] theorem setBuf_txCalls (s : State) (m : Memory) : (s.setBuf m).txCalls = s.txCalls := rfl
@[simp] theorem setBuf_strip (s : State) (m : Memory) : (s.setBuf m).strip = s.strip := rfl
@[simp] theorem setBuf_schedule (s : State) (m : Memory) : (s.setBuf m).schedule = s.schedule := rfl

/-! ### setPix: PIX -/

@[simp] theorem setPix_params (s : State) (p : List Color) : (s.setPix p).params = s.params := rfl
@[simp] theorem setPix_life (s : State) (p : List Color) : (s.setPix p).life = s.life := rfl
@[simp] theorem setPix_n (s : State) (p : List Color) : (s.setPix p).n = s.n := rfl
@[simp] theorem setPix_tp (s : State) (p : List Color) : (s.setPix p).tp = s.tp := rfl
@[simp] theorem setPix_w (s : State) (p : List Color) : (s.setPix p).w = s.w := rfl
@[simp] theorem setPix_h (s : State) (p : List Color) : (s.setPix p).h = s.h := rfl
@[simp] theorem setPix_mode (s : State) (p : List Color) : (s.setPix p).mode = s.mode := rfl
@[simp] theorem setPix_buf (s : State) (p : List Color) : (s.setPix p).buf = s.buf := rfl
@[simp] theorem setPix_pix (s : State) (p : List Color) : (s.setPix p).pix = p := rfl
@[simp] theorem setPix_grid (s : State) (p : List Color) : (s.setPix p).grid = s.grid := rfl
@[simp] theorem setPix_dec (s : State) (p : List Color) : (s.setPix p).dec = s.dec := rfl
@[simp] theorem setPix_rsp (s : State) (p : List Color) : (s.setPix p).rsp = s.rsp := rfl
@[simp] theorem setPix_txCall (s : State) (p : List Color) : (s.setPix p).txCall = s.txCall := rfl
@[simp] theorem setPix_cmd (s : State) (p : List Color) : (s.setPix p).cmd = s.cmd := rfl
@[simp] theorem setPix_rspReady (s : State) (p : List Color) :
    (s.setPix p).rspReady = s.rspReady := rfl
@[simp] theorem setPix_taken (s : State) (p : List Color) : (s.setPix p).taken = s.taken := rfl
@[simp] theorem setPix_txq (s : State) (p : List Color) : (s.setPix p).txq = s.txq := rfl
@[simp] theorem setPix_txSerial (s : State) (p : List Color) :
    (s.setPix p).txSerial = s.txSerial := rfl
@[simp] theorem setPix_txPlan (s : State) (p : List Color) : (s.setPix p).txPlan = s.txPlan := rfl
@[simp] theorem setPix_txCalls (s : State) (p : List Color) :
    (s.setPix p).txCalls = s.txCalls := rfl
@[simp] theorem setPix_strip (s : State) (p : List Color) : (s.setPix p).strip = s.strip := rfl
@[simp] theorem setPix_schedule (s : State) (p : List Color) :
    (s.setPix p).schedule = s.schedule := rfl

/-! ### setGrid: GRID -/

@[simp] theorem setGrid_params (s : State) (g : List Color) : (s.setGrid g).params = s.params := rfl
@[simp] theorem setGrid_life (s : State) (g : List Color) : (s.setGrid g).life = s.life := rfl
@[simp] theorem setGrid_n (s : State) (g : List Color) : (s.setGrid g).n = s.n := rfl
@[simp] theorem setGrid_tp (s : State) (g : List Color) : (s.setGrid g).tp = s.tp := rfl
@[simp] theorem setGrid_w (s : State) (g : List Color) : (s.setGrid g).w = s.w := rfl
@[simp] theorem setGrid_h (s : State) (g : List Color) : (s.setGrid g).h = s.h := rfl
@[simp] theorem setGrid_mode (s : State) (g : List Color) : (s.setGrid g).mode = s.mode := rfl
@[simp] theorem setGrid_buf (s : State) (g : List Color) : (s.setGrid g).buf = s.buf := rfl
@[simp] theorem setGrid_pix (s : State) (g : List Color) : (s.setGrid g).pix = s.pix := rfl
@[simp] theorem setGrid_grid (s : State) (g : List Color) : (s.setGrid g).grid = g := rfl
@[simp] theorem setGrid_dec (s : State) (g : List Color) : (s.setGrid g).dec = s.dec := rfl
@[simp] theorem setGrid_rsp (s : State) (g : List Color) : (s.setGrid g).rsp = s.rsp := rfl
@[simp] theorem setGrid_txCall (s : State) (g : List Color) : (s.setGrid g).txCall = s.txCall := rfl
@[simp] theorem setGrid_cmd (s : State) (g : List Color) : (s.setGrid g).cmd = s.cmd := rfl
@[simp] theorem setGrid_rspReady (s : State) (g : List Color) :
    (s.setGrid g).rspReady = s.rspReady := rfl
@[simp] theorem setGrid_taken (s : State) (g : List Color) : (s.setGrid g).taken = s.taken := rfl
@[simp] theorem setGrid_txq (s : State) (g : List Color) : (s.setGrid g).txq = s.txq := rfl
@[simp] theorem setGrid_txSerial (s : State) (g : List Color) :
    (s.setGrid g).txSerial = s.txSerial := rfl
@[simp] theorem setGrid_txPlan (s : State) (g : List Color) : (s.setGrid g).txPlan = s.txPlan := rfl
@[simp] theorem setGrid_txCalls (s : State) (g : List Color) :
    (s.setGrid g).txCalls = s.txCalls := rfl
@[simp] theorem setGrid_strip (s : State) (g : List Color) : (s.setGrid g).strip = s.strip := rfl
@[simp] theorem setGrid_schedule (s : State) (g : List Color) :
    (s.setGrid g).schedule = s.schedule := rfl

/-! ### setDec: DEC -/

@[simp] theorem setDec_params (s : State) (d : Dec) : (s.setDec d).params = s.params := rfl
@[simp] theorem setDec_life (s : State) (d : Dec) : (s.setDec d).life = s.life := rfl
@[simp] theorem setDec_n (s : State) (d : Dec) : (s.setDec d).n = s.n := rfl
@[simp] theorem setDec_tp (s : State) (d : Dec) : (s.setDec d).tp = s.tp := rfl
@[simp] theorem setDec_w (s : State) (d : Dec) : (s.setDec d).w = s.w := rfl
@[simp] theorem setDec_h (s : State) (d : Dec) : (s.setDec d).h = s.h := rfl
@[simp] theorem setDec_mode (s : State) (d : Dec) : (s.setDec d).mode = s.mode := rfl
@[simp] theorem setDec_buf (s : State) (d : Dec) : (s.setDec d).buf = s.buf := rfl
@[simp] theorem setDec_pix (s : State) (d : Dec) : (s.setDec d).pix = s.pix := rfl
@[simp] theorem setDec_grid (s : State) (d : Dec) : (s.setDec d).grid = s.grid := rfl
@[simp] theorem setDec_dec (s : State) (d : Dec) : (s.setDec d).dec = d := rfl
@[simp] theorem setDec_rsp (s : State) (d : Dec) : (s.setDec d).rsp = s.rsp := rfl
@[simp] theorem setDec_txCall (s : State) (d : Dec) : (s.setDec d).txCall = s.txCall := rfl
@[simp] theorem setDec_cmd (s : State) (d : Dec) : (s.setDec d).cmd = s.cmd := rfl
@[simp] theorem setDec_rspReady (s : State) (d : Dec) : (s.setDec d).rspReady = s.rspReady := rfl
@[simp] theorem setDec_taken (s : State) (d : Dec) : (s.setDec d).taken = s.taken := rfl
@[simp] theorem setDec_txq (s : State) (d : Dec) : (s.setDec d).txq = s.txq := rfl
@[simp] theorem setDec_txSerial (s : State) (d : Dec) : (s.setDec d).txSerial = s.txSerial := rfl
@[simp] theorem setDec_txPlan (s : State) (d : Dec) : (s.setDec d).txPlan = s.txPlan := rfl
@[simp] theorem setDec_txCalls (s : State) (d : Dec) : (s.setDec d).txCalls = s.txCalls := rfl
@[simp] theorem setDec_strip (s : State) (d : Dec) : (s.setDec d).strip = s.strip := rfl
@[simp] theorem setDec_schedule (s : State) (d : Dec) : (s.setDec d).schedule = s.schedule := rfl

/-! ### setCmd: the words offered -/

@[simp] theorem setCmd_params (s : State) (ws : List Word) : (s.setCmd ws).params = s.params := rfl
@[simp] theorem setCmd_life (s : State) (ws : List Word) : (s.setCmd ws).life = s.life := rfl
@[simp] theorem setCmd_n (s : State) (ws : List Word) : (s.setCmd ws).n = s.n := rfl
@[simp] theorem setCmd_tp (s : State) (ws : List Word) : (s.setCmd ws).tp = s.tp := rfl
@[simp] theorem setCmd_w (s : State) (ws : List Word) : (s.setCmd ws).w = s.w := rfl
@[simp] theorem setCmd_h (s : State) (ws : List Word) : (s.setCmd ws).h = s.h := rfl
@[simp] theorem setCmd_mode (s : State) (ws : List Word) : (s.setCmd ws).mode = s.mode := rfl
@[simp] theorem setCmd_buf (s : State) (ws : List Word) : (s.setCmd ws).buf = s.buf := rfl
@[simp] theorem setCmd_pix (s : State) (ws : List Word) : (s.setCmd ws).pix = s.pix := rfl
@[simp] theorem setCmd_grid (s : State) (ws : List Word) : (s.setCmd ws).grid = s.grid := rfl
@[simp] theorem setCmd_dec (s : State) (ws : List Word) : (s.setCmd ws).dec = s.dec := rfl
@[simp] theorem setCmd_rsp (s : State) (ws : List Word) : (s.setCmd ws).rsp = s.rsp := rfl
@[simp] theorem setCmd_txCall (s : State) (ws : List Word) : (s.setCmd ws).txCall = s.txCall := rfl
@[simp] theorem setCmd_cmd (s : State) (ws : List Word) : (s.setCmd ws).cmd = ws := rfl
@[simp] theorem setCmd_rspReady (s : State) (ws : List Word) :
    (s.setCmd ws).rspReady = s.rspReady := rfl
@[simp] theorem setCmd_taken (s : State) (ws : List Word) : (s.setCmd ws).taken = s.taken := rfl
@[simp] theorem setCmd_txq (s : State) (ws : List Word) : (s.setCmd ws).txq = s.txq := rfl
@[simp] theorem setCmd_txSerial (s : State) (ws : List Word) :
    (s.setCmd ws).txSerial = s.txSerial := rfl
@[simp] theorem setCmd_txPlan (s : State) (ws : List Word) : (s.setCmd ws).txPlan = s.txPlan := rfl
@[simp] theorem setCmd_txCalls (s : State) (ws : List Word) :
    (s.setCmd ws).txCalls = s.txCalls := rfl
@[simp] theorem setCmd_strip (s : State) (ws : List Word) : (s.setCmd ws).strip = s.strip := rfl
@[simp] theorem setCmd_schedule (s : State) (ws : List Word) :
    (s.setCmd ws).schedule = s.schedule := rfl

/-! ### setSchedule: the moves to come -/

@[simp] theorem setSchedule_params (s : State) (ms : List Move) :
    (s.setSchedule ms).params = s.params := rfl
@[simp] theorem setSchedule_life (s : State) (ms : List Move) :
    (s.setSchedule ms).life = s.life := rfl
@[simp] theorem setSchedule_n (s : State) (ms : List Move) : (s.setSchedule ms).n = s.n := rfl
@[simp] theorem setSchedule_tp (s : State) (ms : List Move) : (s.setSchedule ms).tp = s.tp := rfl
@[simp] theorem setSchedule_w (s : State) (ms : List Move) : (s.setSchedule ms).w = s.w := rfl
@[simp] theorem setSchedule_h (s : State) (ms : List Move) : (s.setSchedule ms).h = s.h := rfl
@[simp] theorem setSchedule_mode (s : State) (ms : List Move) :
    (s.setSchedule ms).mode = s.mode := rfl
@[simp] theorem setSchedule_buf (s : State) (ms : List Move) : (s.setSchedule ms).buf = s.buf := rfl
@[simp] theorem setSchedule_pix (s : State) (ms : List Move) : (s.setSchedule ms).pix = s.pix := rfl
@[simp] theorem setSchedule_grid (s : State) (ms : List Move) :
    (s.setSchedule ms).grid = s.grid := rfl
@[simp] theorem setSchedule_dec (s : State) (ms : List Move) : (s.setSchedule ms).dec = s.dec := rfl
@[simp] theorem setSchedule_rsp (s : State) (ms : List Move) : (s.setSchedule ms).rsp = s.rsp := rfl
@[simp] theorem setSchedule_txCall (s : State) (ms : List Move) :
    (s.setSchedule ms).txCall = s.txCall := rfl
@[simp] theorem setSchedule_cmd (s : State) (ms : List Move) : (s.setSchedule ms).cmd = s.cmd := rfl
@[simp] theorem setSchedule_rspReady (s : State) (ms : List Move) :
    (s.setSchedule ms).rspReady = s.rspReady := rfl
@[simp] theorem setSchedule_taken (s : State) (ms : List Move) :
    (s.setSchedule ms).taken = s.taken := rfl
@[simp] theorem setSchedule_txq (s : State) (ms : List Move) : (s.setSchedule ms).txq = s.txq := rfl
@[simp] theorem setSchedule_txSerial (s : State) (ms : List Move) :
    (s.setSchedule ms).txSerial = s.txSerial := rfl
@[simp] theorem setSchedule_txPlan (s : State) (ms : List Move) :
    (s.setSchedule ms).txPlan = s.txPlan := rfl
@[simp] theorem setSchedule_txCalls (s : State) (ms : List Move) :
    (s.setSchedule ms).txCalls = s.txCalls := rfl
@[simp] theorem setSchedule_strip (s : State) (ms : List Move) :
    (s.setSchedule ms).strip = s.strip := rfl
@[simp] theorem setSchedule_schedule (s : State) (ms : List Move) :
    (s.setSchedule ms).schedule = ms := rfl

/-! ### take: the host takes a response word -/

@[simp] theorem take_params (s : State) (word : Word) (rest : List Word) :
    (s.take word rest).params = s.params := rfl
@[simp] theorem take_life (s : State) (word : Word) (rest : List Word) :
    (s.take word rest).life = s.life := rfl
@[simp] theorem take_n (s : State) (word : Word) (rest : List Word) :
    (s.take word rest).n = s.n := rfl
@[simp] theorem take_tp (s : State) (word : Word) (rest : List Word) :
    (s.take word rest).tp = s.tp := rfl
@[simp] theorem take_w (s : State) (word : Word) (rest : List Word) :
    (s.take word rest).w = s.w := rfl
@[simp] theorem take_h (s : State) (word : Word) (rest : List Word) :
    (s.take word rest).h = s.h := rfl
@[simp] theorem take_mode (s : State) (word : Word) (rest : List Word) :
    (s.take word rest).mode = s.mode := rfl
@[simp] theorem take_buf (s : State) (word : Word) (rest : List Word) :
    (s.take word rest).buf = s.buf := rfl
@[simp] theorem take_pix (s : State) (word : Word) (rest : List Word) :
    (s.take word rest).pix = s.pix := rfl
@[simp] theorem take_grid (s : State) (word : Word) (rest : List Word) :
    (s.take word rest).grid = s.grid := rfl
@[simp] theorem take_dec (s : State) (word : Word) (rest : List Word) :
    (s.take word rest).dec = s.dec := rfl
@[simp] theorem take_rsp (s : State) (word : Word) (rest : List Word) :
    (s.take word rest).rsp = rest := rfl
@[simp] theorem take_txCall (s : State) (word : Word) (rest : List Word) :
    (s.take word rest).txCall = s.txCall := rfl
@[simp] theorem take_cmd (s : State) (word : Word) (rest : List Word) :
    (s.take word rest).cmd = s.cmd := rfl
@[simp] theorem take_rspReady (s : State) (word : Word) (rest : List Word) :
    (s.take word rest).rspReady = s.rspReady := rfl
@[simp] theorem take_taken (s : State) (word : Word) (rest : List Word) :
    (s.take word rest).taken = s.taken ++ [word] := rfl
@[simp] theorem take_txq (s : State) (word : Word) (rest : List Word) :
    (s.take word rest).txq = s.txq := rfl
@[simp] theorem take_txSerial (s : State) (word : Word) (rest : List Word) :
    (s.take word rest).txSerial = s.txSerial := rfl
@[simp] theorem take_txPlan (s : State) (word : Word) (rest : List Word) :
    (s.take word rest).txPlan = s.txPlan := rfl
@[simp] theorem take_txCalls (s : State) (word : Word) (rest : List Word) :
    (s.take word rest).txCalls = s.txCalls := rfl
@[simp] theorem take_strip (s : State) (word : Word) (rest : List Word) :
    (s.take word rest).strip = s.strip := rfl
@[simp] theorem take_schedule (s : State) (word : Word) (rest : List Word) :
    (s.take word rest).schedule = s.schedule := rfl

/-! ### setReady: the host's ready line -/

@[simp] theorem setReady_params (s : State) (r : Bool) : (s.setReady r).params = s.params := rfl
@[simp] theorem setReady_life (s : State) (r : Bool) : (s.setReady r).life = s.life := rfl
@[simp] theorem setReady_n (s : State) (r : Bool) : (s.setReady r).n = s.n := rfl
@[simp] theorem setReady_tp (s : State) (r : Bool) : (s.setReady r).tp = s.tp := rfl
@[simp] theorem setReady_w (s : State) (r : Bool) : (s.setReady r).w = s.w := rfl
@[simp] theorem setReady_h (s : State) (r : Bool) : (s.setReady r).h = s.h := rfl
@[simp] theorem setReady_mode (s : State) (r : Bool) : (s.setReady r).mode = s.mode := rfl
@[simp] theorem setReady_buf (s : State) (r : Bool) : (s.setReady r).buf = s.buf := rfl
@[simp] theorem setReady_pix (s : State) (r : Bool) : (s.setReady r).pix = s.pix := rfl
@[simp] theorem setReady_grid (s : State) (r : Bool) : (s.setReady r).grid = s.grid := rfl
@[simp] theorem setReady_dec (s : State) (r : Bool) : (s.setReady r).dec = s.dec := rfl
@[simp] theorem setReady_rsp (s : State) (r : Bool) : (s.setReady r).rsp = s.rsp := rfl
@[simp] theorem setReady_txCall (s : State) (r : Bool) : (s.setReady r).txCall = s.txCall := rfl
@[simp] theorem setReady_cmd (s : State) (r : Bool) : (s.setReady r).cmd = s.cmd := rfl
@[simp] theorem setReady_rspReady (s : State) (r : Bool) : (s.setReady r).rspReady = r := rfl
@[simp] theorem setReady_taken (s : State) (r : Bool) : (s.setReady r).taken = s.taken := rfl
@[simp] theorem setReady_txq (s : State) (r : Bool) : (s.setReady r).txq = s.txq := rfl
@[simp] theorem setReady_txSerial (s : State) (r : Bool) :
    (s.setReady r).txSerial = s.txSerial := rfl
@[simp] theorem setReady_txPlan (s : State) (r : Bool) : (s.setReady r).txPlan = s.txPlan := rfl
@[simp] theorem setReady_txCalls (s : State) (r : Bool) : (s.setReady r).txCalls = s.txCalls := rfl
@[simp] theorem setReady_strip (s : State) (r : Bool) : (s.setReady r).strip = s.strip := rfl
@[simp] theorem setReady_schedule (s : State) (r : Bool) :
    (s.setReady r).schedule = s.schedule := rfl

/-! ### respond: a response -/

@[simp] theorem respond_params (s : State) (data : List Word) (e : Status) :
    (s.respond data e).params = s.params := rfl
@[simp] theorem respond_life (s : State) (data : List Word) (e : Status) :
    (s.respond data e).life = s.life := rfl
@[simp] theorem respond_n (s : State) (data : List Word) (e : Status) :
    (s.respond data e).n = s.n := rfl
@[simp] theorem respond_tp (s : State) (data : List Word) (e : Status) :
    (s.respond data e).tp = s.tp := rfl
@[simp] theorem respond_w (s : State) (data : List Word) (e : Status) :
    (s.respond data e).w = s.w := rfl
@[simp] theorem respond_h (s : State) (data : List Word) (e : Status) :
    (s.respond data e).h = s.h := rfl
@[simp] theorem respond_mode (s : State) (data : List Word) (e : Status) :
    (s.respond data e).mode = s.mode := rfl
@[simp] theorem respond_buf (s : State) (data : List Word) (e : Status) :
    (s.respond data e).buf = s.buf := rfl
@[simp] theorem respond_pix (s : State) (data : List Word) (e : Status) :
    (s.respond data e).pix = s.pix := rfl
@[simp] theorem respond_grid (s : State) (data : List Word) (e : Status) :
    (s.respond data e).grid = s.grid := rfl
@[simp] theorem respond_dec (s : State) (data : List Word) (e : Status) :
    (s.respond data e).dec = s.dec := rfl
@[simp] theorem respond_rsp (s : State) (data : List Word) (e : Status) :
    (s.respond data e).rsp = s.rsp ++ data ++ [statusWord e] := rfl
@[simp] theorem respond_txCall (s : State) (data : List Word) (e : Status) :
    (s.respond data e).txCall = s.txCall := rfl
@[simp] theorem respond_cmd (s : State) (data : List Word) (e : Status) :
    (s.respond data e).cmd = s.cmd := rfl
@[simp] theorem respond_rspReady (s : State) (data : List Word) (e : Status) :
    (s.respond data e).rspReady = s.rspReady := rfl
@[simp] theorem respond_taken (s : State) (data : List Word) (e : Status) :
    (s.respond data e).taken = s.taken := rfl
@[simp] theorem respond_txq (s : State) (data : List Word) (e : Status) :
    (s.respond data e).txq = s.txq := rfl
@[simp] theorem respond_txSerial (s : State) (data : List Word) (e : Status) :
    (s.respond data e).txSerial = s.txSerial := rfl
@[simp] theorem respond_txPlan (s : State) (data : List Word) (e : Status) :
    (s.respond data e).txPlan = s.txPlan := rfl
@[simp] theorem respond_txCalls (s : State) (data : List Word) (e : Status) :
    (s.respond data e).txCalls = s.txCalls := rfl
@[simp] theorem respond_strip (s : State) (data : List Word) (e : Status) :
    (s.respond data e).strip = s.strip := rfl
@[simp] theorem respond_schedule (s : State) (data : List Word) (e : Status) :
    (s.respond data e).schedule = s.schedule := rfl

/-! ### touchTx: the mark of a mutation on the transmissions in flight -/

@[simp] theorem touchTx_params (s : State) : (s.touchTx).params = s.params := rfl
@[simp] theorem touchTx_life (s : State) : (s.touchTx).life = s.life := rfl
@[simp] theorem touchTx_n (s : State) : (s.touchTx).n = s.n := rfl
@[simp] theorem touchTx_tp (s : State) : (s.touchTx).tp = s.tp := rfl
@[simp] theorem touchTx_w (s : State) : (s.touchTx).w = s.w := rfl
@[simp] theorem touchTx_h (s : State) : (s.touchTx).h = s.h := rfl
@[simp] theorem touchTx_mode (s : State) : (s.touchTx).mode = s.mode := rfl
@[simp] theorem touchTx_buf (s : State) : (s.touchTx).buf = s.buf := rfl
@[simp] theorem touchTx_pix (s : State) : (s.touchTx).pix = s.pix := rfl
@[simp] theorem touchTx_grid (s : State) : (s.touchTx).grid = s.grid := rfl
@[simp] theorem touchTx_dec (s : State) : (s.touchTx).dec = s.dec := rfl
@[simp] theorem touchTx_rsp (s : State) : (s.touchTx).rsp = s.rsp := rfl
@[simp] theorem touchTx_txCall (s : State) : (s.touchTx).txCall = s.txCall := rfl
@[simp] theorem touchTx_cmd (s : State) : (s.touchTx).cmd = s.cmd := rfl
@[simp] theorem touchTx_rspReady (s : State) : (s.touchTx).rspReady = s.rspReady := rfl
@[simp] theorem touchTx_taken (s : State) : (s.touchTx).taken = s.taken := rfl
@[simp] theorem touchTx_txq (s : State) : (s.touchTx).txq = s.txq.map Transmission.touch := rfl
@[simp] theorem touchTx_txSerial (s : State) : (s.touchTx).txSerial = s.txSerial := rfl
@[simp] theorem touchTx_txPlan (s : State) : (s.touchTx).txPlan = s.txPlan := rfl
@[simp] theorem touchTx_txCalls (s : State) : (s.touchTx).txCalls = s.txCalls := rfl
@[simp] theorem touchTx_strip (s : State) : (s.touchTx).strip = s.strip := rfl
@[simp] theorem touchTx_schedule (s : State) : (s.touchTx).schedule = s.schedule := rfl

/-! ### cutAll: the mark of a release on the transmissions in flight -/

@[simp] theorem cutAll_params (s : State) : (s.cutAll).params = s.params := rfl
@[simp] theorem cutAll_life (s : State) : (s.cutAll).life = s.life := rfl
@[simp] theorem cutAll_n (s : State) : (s.cutAll).n = s.n := rfl
@[simp] theorem cutAll_tp (s : State) : (s.cutAll).tp = s.tp := rfl
@[simp] theorem cutAll_w (s : State) : (s.cutAll).w = s.w := rfl
@[simp] theorem cutAll_h (s : State) : (s.cutAll).h = s.h := rfl
@[simp] theorem cutAll_mode (s : State) : (s.cutAll).mode = s.mode := rfl
@[simp] theorem cutAll_buf (s : State) : (s.cutAll).buf = s.buf := rfl
@[simp] theorem cutAll_pix (s : State) : (s.cutAll).pix = s.pix := rfl
@[simp] theorem cutAll_grid (s : State) : (s.cutAll).grid = s.grid := rfl
@[simp] theorem cutAll_dec (s : State) : (s.cutAll).dec = s.dec := rfl
@[simp] theorem cutAll_rsp (s : State) : (s.cutAll).rsp = s.rsp := rfl
@[simp] theorem cutAll_txCall (s : State) : (s.cutAll).txCall = s.txCall := rfl
@[simp] theorem cutAll_cmd (s : State) : (s.cutAll).cmd = s.cmd := rfl
@[simp] theorem cutAll_rspReady (s : State) : (s.cutAll).rspReady = s.rspReady := rfl
@[simp] theorem cutAll_taken (s : State) : (s.cutAll).taken = s.taken := rfl
@[simp] theorem cutAll_txq (s : State) : (s.cutAll).txq = s.txq.map Transmission.cutShort := rfl
@[simp] theorem cutAll_txSerial (s : State) : (s.cutAll).txSerial = s.txSerial := rfl
@[simp] theorem cutAll_txPlan (s : State) : (s.cutAll).txPlan = s.txPlan := rfl
@[simp] theorem cutAll_txCalls (s : State) : (s.cutAll).txCalls = s.txCalls := rfl
@[simp] theorem cutAll_strip (s : State) : (s.cutAll).strip = s.strip := rfl
@[simp] theorem cutAll_schedule (s : State) : (s.cutAll).schedule = s.schedule := rfl

/-! ### returned: the return of a call -/

@[simp] theorem returned_params (s : State) : (s.returned).params = s.params := rfl
@[simp] theorem returned_life (s : State) : (s.returned).life = s.life := rfl
@[simp] theorem returned_n (s : State) : (s.returned).n = s.n := rfl
@[simp] theorem returned_tp (s : State) : (s.returned).tp = s.tp := rfl
@[simp] theorem returned_w (s : State) : (s.returned).w = s.w := rfl
@[simp] theorem returned_h (s : State) : (s.returned).h = s.h := rfl
@[simp] theorem returned_mode (s : State) : (s.returned).mode = s.mode := rfl
@[simp] theorem returned_buf (s : State) : (s.returned).buf = s.buf := rfl
@[simp] theorem returned_pix (s : State) : (s.returned).pix = s.pix := rfl
@[simp] theorem returned_grid (s : State) : (s.returned).grid = s.grid := rfl
@[simp] theorem returned_dec (s : State) : (s.returned).dec = s.dec := rfl
@[simp] theorem returned_rsp (s : State) : (s.returned).rsp = s.rsp := rfl
@[simp] theorem returned_txCall (s : State) : (s.returned).txCall = none := rfl
@[simp] theorem returned_cmd (s : State) : (s.returned).cmd = s.cmd := rfl
@[simp] theorem returned_rspReady (s : State) : (s.returned).rspReady = s.rspReady := rfl
@[simp] theorem returned_taken (s : State) : (s.returned).taken = s.taken := rfl
@[simp] theorem returned_txq (s : State) : (s.returned).txq = s.txq := rfl
@[simp] theorem returned_txSerial (s : State) : (s.returned).txSerial = s.txSerial := rfl
@[simp] theorem returned_txPlan (s : State) : (s.returned).txPlan = s.txPlan := rfl
@[simp] theorem returned_txCalls (s : State) : (s.returned).txCalls = s.txCalls := rfl
@[simp] theorem returned_strip (s : State) : (s.returned).strip = s.strip := rfl
@[simp] theorem returned_schedule (s : State) : (s.returned).schedule = s.schedule := rfl

/-! ### setPlan: the plan of answers -/

@[simp] theorem setPlan_params (s : State) (p : List TxAnswer) :
    (s.setPlan p).params = s.params := rfl
@[simp] theorem setPlan_life (s : State) (p : List TxAnswer) : (s.setPlan p).life = s.life := rfl
@[simp] theorem setPlan_n (s : State) (p : List TxAnswer) : (s.setPlan p).n = s.n := rfl
@[simp] theorem setPlan_tp (s : State) (p : List TxAnswer) : (s.setPlan p).tp = s.tp := rfl
@[simp] theorem setPlan_w (s : State) (p : List TxAnswer) : (s.setPlan p).w = s.w := rfl
@[simp] theorem setPlan_h (s : State) (p : List TxAnswer) : (s.setPlan p).h = s.h := rfl
@[simp] theorem setPlan_mode (s : State) (p : List TxAnswer) : (s.setPlan p).mode = s.mode := rfl
@[simp] theorem setPlan_buf (s : State) (p : List TxAnswer) : (s.setPlan p).buf = s.buf := rfl
@[simp] theorem setPlan_pix (s : State) (p : List TxAnswer) : (s.setPlan p).pix = s.pix := rfl
@[simp] theorem setPlan_grid (s : State) (p : List TxAnswer) : (s.setPlan p).grid = s.grid := rfl
@[simp] theorem setPlan_dec (s : State) (p : List TxAnswer) : (s.setPlan p).dec = s.dec := rfl
@[simp] theorem setPlan_rsp (s : State) (p : List TxAnswer) : (s.setPlan p).rsp = s.rsp := rfl
@[simp] theorem setPlan_txCall (s : State) (p : List TxAnswer) :
    (s.setPlan p).txCall = s.txCall := rfl
@[simp] theorem setPlan_cmd (s : State) (p : List TxAnswer) : (s.setPlan p).cmd = s.cmd := rfl
@[simp] theorem setPlan_rspReady (s : State) (p : List TxAnswer) :
    (s.setPlan p).rspReady = s.rspReady := rfl
@[simp] theorem setPlan_taken (s : State) (p : List TxAnswer) : (s.setPlan p).taken = s.taken := rfl
@[simp] theorem setPlan_txq (s : State) (p : List TxAnswer) : (s.setPlan p).txq = s.txq := rfl
@[simp] theorem setPlan_txSerial (s : State) (p : List TxAnswer) :
    (s.setPlan p).txSerial = s.txSerial := rfl
@[simp] theorem setPlan_txPlan (s : State) (p : List TxAnswer) : (s.setPlan p).txPlan = p := rfl
@[simp] theorem setPlan_txCalls (s : State) (p : List TxAnswer) :
    (s.setPlan p).txCalls = s.txCalls := rfl
@[simp] theorem setPlan_strip (s : State) (p : List TxAnswer) : (s.setPlan p).strip = s.strip := rfl
@[simp] theorem setPlan_schedule (s : State) (p : List TxAnswer) :
    (s.setPlan p).schedule = s.schedule := rfl

/-! ### present: presenting a call -/

@[simp] theorem present_params (s : State) (call : TxCall) :
    (s.present call).params = s.params := rfl
@[simp] theorem present_life (s : State) (call : TxCall) : (s.present call).life = s.life := rfl
@[simp] theorem present_n (s : State) (call : TxCall) : (s.present call).n = s.n := rfl
@[simp] theorem present_tp (s : State) (call : TxCall) : (s.present call).tp = s.tp := rfl
@[simp] theorem present_w (s : State) (call : TxCall) : (s.present call).w = s.w := rfl
@[simp] theorem present_h (s : State) (call : TxCall) : (s.present call).h = s.h := rfl
@[simp] theorem present_mode (s : State) (call : TxCall) : (s.present call).mode = s.mode := rfl
@[simp] theorem present_buf (s : State) (call : TxCall) : (s.present call).buf = s.buf := rfl
@[simp] theorem present_pix (s : State) (call : TxCall) : (s.present call).pix = s.pix := rfl
@[simp] theorem present_grid (s : State) (call : TxCall) : (s.present call).grid = s.grid := rfl
@[simp] theorem present_dec (s : State) (call : TxCall) : (s.present call).dec = s.dec := rfl
@[simp] theorem present_rsp (s : State) (call : TxCall) : (s.present call).rsp = s.rsp := rfl
@[simp] theorem present_txCall (s : State) (call : TxCall) :
    (s.present call).txCall = some call := rfl
@[simp] theorem present_cmd (s : State) (call : TxCall) : (s.present call).cmd = s.cmd := rfl
@[simp] theorem present_rspReady (s : State) (call : TxCall) :
    (s.present call).rspReady = s.rspReady := rfl
@[simp] theorem present_taken (s : State) (call : TxCall) : (s.present call).taken = s.taken := rfl
@[simp] theorem present_txq (s : State) (call : TxCall) : (s.present call).txq = s.txq := rfl
@[simp] theorem present_txSerial (s : State) (call : TxCall) :
    (s.present call).txSerial = s.txSerial := rfl
@[simp] theorem present_txPlan (s : State) (call : TxCall) :
    (s.present call).txPlan = s.txPlan := rfl
@[simp] theorem present_txCalls (s : State) (call : TxCall) :
    (s.present call).txCalls = s.txCalls ++ [call] := rfl
@[simp] theorem present_strip (s : State) (call : TxCall) : (s.present call).strip = s.strip := rfl
@[simp] theorem present_schedule (s : State) (call : TxCall) :
    (s.present call).schedule = s.schedule := rfl

/-! ### startTransmission: starting a transmission -/

@[simp] theorem startTransmission_params (s : State) (b : List Byte) :
    (s.startTransmission b).params = s.params := rfl
@[simp] theorem startTransmission_life (s : State) (b : List Byte) :
    (s.startTransmission b).life = s.life := rfl
@[simp] theorem startTransmission_n (s : State) (b : List Byte) :
    (s.startTransmission b).n = s.n := rfl
@[simp] theorem startTransmission_tp (s : State) (b : List Byte) :
    (s.startTransmission b).tp = s.tp := rfl
@[simp] theorem startTransmission_w (s : State) (b : List Byte) :
    (s.startTransmission b).w = s.w := rfl
@[simp] theorem startTransmission_h (s : State) (b : List Byte) :
    (s.startTransmission b).h = s.h := rfl
@[simp] theorem startTransmission_mode (s : State) (b : List Byte) :
    (s.startTransmission b).mode = s.mode := rfl
@[simp] theorem startTransmission_buf (s : State) (b : List Byte) :
    (s.startTransmission b).buf = s.buf := rfl
@[simp] theorem startTransmission_pix (s : State) (b : List Byte) :
    (s.startTransmission b).pix = s.pix := rfl
@[simp] theorem startTransmission_grid (s : State) (b : List Byte) :
    (s.startTransmission b).grid = s.grid := rfl
@[simp] theorem startTransmission_dec (s : State) (b : List Byte) :
    (s.startTransmission b).dec = s.dec := rfl
@[simp] theorem startTransmission_rsp (s : State) (b : List Byte) :
    (s.startTransmission b).rsp = s.rsp := rfl
@[simp] theorem startTransmission_txCall (s : State) (b : List Byte) :
    (s.startTransmission b).txCall = s.txCall := rfl
@[simp] theorem startTransmission_cmd (s : State) (b : List Byte) :
    (s.startTransmission b).cmd = s.cmd := rfl
@[simp] theorem startTransmission_rspReady (s : State) (b : List Byte) :
    (s.startTransmission b).rspReady = s.rspReady := rfl
@[simp] theorem startTransmission_taken (s : State) (b : List Byte) :
    (s.startTransmission b).taken = s.taken := rfl
@[simp] theorem startTransmission_txq (s : State) (b : List Byte) :
    (s.startTransmission b).txq = s.txq.map Transmission.overlap ++ [⟨s.txSerial, b, false, !s.txq.isEmpty, false⟩] := rfl
@[simp] theorem startTransmission_txSerial (s : State) (b : List Byte) :
    (s.startTransmission b).txSerial = s.txSerial + 1 := rfl
@[simp] theorem startTransmission_txPlan (s : State) (b : List Byte) :
    (s.startTransmission b).txPlan = s.txPlan := rfl
@[simp] theorem startTransmission_txCalls (s : State) (b : List Byte) :
    (s.startTransmission b).txCalls = s.txCalls := rfl
@[simp] theorem startTransmission_strip (s : State) (b : List Byte) :
    (s.startTransmission b).strip = s.strip := rfl
@[simp] theorem startTransmission_schedule (s : State) (b : List Byte) :
    (s.startTransmission b).schedule = s.schedule := rfl

/-! ### applyReset: the reset input -/

@[simp] theorem applyReset_params (s : State) : (s.applyReset).params = s.params := rfl
@[simp] theorem applyReset_life (s : State) : (s.applyReset).life = .empty := rfl
@[simp] theorem applyReset_n (s : State) : (s.applyReset).n = 0 := rfl
@[simp] theorem applyReset_tp (s : State) : (s.applyReset).tp = ⟨0, 0, 0, 0⟩ := rfl
@[simp] theorem applyReset_w (s : State) : (s.applyReset).w = 0 := rfl
@[simp] theorem applyReset_h (s : State) : (s.applyReset).h = 0 := rfl
@[simp] theorem applyReset_mode (s : State) : (s.applyReset).mode = 0 := rfl
@[simp] theorem applyReset_buf (s : State) : (s.applyReset).buf = [] := rfl
@[simp] theorem applyReset_pix (s : State) : (s.applyReset).pix = [] := rfl
@[simp] theorem applyReset_grid (s : State) : (s.applyReset).grid = [] := rfl
@[simp] theorem applyReset_dec (s : State) : (s.applyReset).dec = .idle := rfl
@[simp] theorem applyReset_rsp (s : State) : (s.applyReset).rsp = [] := rfl
@[simp] theorem applyReset_txCall (s : State) : (s.applyReset).txCall = none := rfl
@[simp] theorem applyReset_cmd (s : State) : (s.applyReset).cmd = s.cmd := rfl
@[simp] theorem applyReset_rspReady (s : State) : (s.applyReset).rspReady = s.rspReady := rfl
@[simp] theorem applyReset_taken (s : State) : (s.applyReset).taken = s.taken := rfl
@[simp] theorem applyReset_txq (s : State) :
    (s.applyReset).txq = s.txq.map Transmission.cutShort := rfl
@[simp] theorem applyReset_txSerial (s : State) : (s.applyReset).txSerial = s.txSerial := rfl
@[simp] theorem applyReset_txPlan (s : State) : (s.applyReset).txPlan = s.txPlan := rfl
@[simp] theorem applyReset_txCalls (s : State) : (s.applyReset).txCalls = s.txCalls := rfl
@[simp] theorem applyReset_strip (s : State) : (s.applyReset).strip = s.strip := rfl
@[simp] theorem applyReset_schedule (s : State) : (s.applyReset).schedule = s.schedule := rfl

/-! ### The buffer's addresses follow their registers -/

@[simp] theorem setLife_slice (s : State) (l : Life) (i : Nat) : (s.setLife l).slice i = s.slice i := rfl
@[simp] theorem setLife_blocks (s : State) (l : Life) (cs : List Color) :
    (s.setLife l).blocks cs = s.blocks cs := rfl
@[simp] theorem setLife_bufLength (s : State) (l : Life) : (s.setLife l).bufLength = s.bufLength := rfl
@[simp] theorem setGeometry_slice (s : State) (w h m : BitVec 8) (i : Nat) : (s.setGeometry w h m).slice i = s.slice i := rfl
@[simp] theorem setGeometry_blocks (s : State) (w h m : BitVec 8) (cs : List Color) :
    (s.setGeometry w h m).blocks cs = s.blocks cs := rfl
@[simp] theorem setGeometry_bufLength (s : State) (w h m : BitVec 8) : (s.setGeometry w h m).bufLength = s.bufLength := rfl
@[simp] theorem setBuf_slice (s : State) (m : Memory) (i : Nat) : (s.setBuf m).slice i = s.slice i := rfl
@[simp] theorem setBuf_blocks (s : State) (m : Memory) (cs : List Color) :
    (s.setBuf m).blocks cs = s.blocks cs := rfl
@[simp] theorem setBuf_bufLength (s : State) (m : Memory) : (s.setBuf m).bufLength = s.bufLength := rfl
@[simp] theorem setPix_slice (s : State) (p : List Color) (i : Nat) : (s.setPix p).slice i = s.slice i := rfl
@[simp] theorem setPix_blocks (s : State) (p : List Color) (cs : List Color) :
    (s.setPix p).blocks cs = s.blocks cs := rfl
@[simp] theorem setPix_bufLength (s : State) (p : List Color) : (s.setPix p).bufLength = s.bufLength := rfl
@[simp] theorem setGrid_slice (s : State) (g : List Color) (i : Nat) : (s.setGrid g).slice i = s.slice i := rfl
@[simp] theorem setGrid_blocks (s : State) (g : List Color) (cs : List Color) :
    (s.setGrid g).blocks cs = s.blocks cs := rfl
@[simp] theorem setGrid_bufLength (s : State) (g : List Color) : (s.setGrid g).bufLength = s.bufLength := rfl
@[simp] theorem touchTx_slice (s : State) (i : Nat) : (s.touchTx).slice i = s.slice i := rfl
@[simp] theorem touchTx_blocks (s : State) (cs : List Color) :
    (s.touchTx).blocks cs = s.blocks cs := rfl
@[simp] theorem touchTx_bufLength (s : State) : (s.touchTx).bufLength = s.bufLength := rfl
@[simp] theorem touchTx_readBuf (s : State) (a n : Nat) : s.touchTx.readBuf a n = s.readBuf a n := rfl

end Sys2Proof.Machine
end

