-- ==== Sys2Proof/Laws/Ops.lean ====
section
/-! SUPPORT. For each shared operation, one lemma that says everything it can do: on a state that meets the
buffer invariant it gives the state named here, and it keeps the canonical form on every state. -/

namespace Sys2Proof.Machine

/-! ### The response words as numbers (30_encoding.md R99, R100) -/

theorem byteWord_toNat (b0 b1 b2 : Byte) :
    (place b0 16 ||| place b1 8 ||| place b2 0).toNat =
      b0.toNat * 2 ^ 16 + (b1.toNat * 2 ^ 8 + b2.toNat) := by
  have h0 := b0.isLt
  have h1 := b1.isLt
  have h2 := b2.isLt
  have e2 : (place b2 0).toNat = b2.toNat := by rw [place_toNat _ _ (by omega), Nat.pow_zero, Nat.mul_one]
  have e1 : (place b1 8 ||| place b2 0).toNat = b1.toNat * 2 ^ 8 + b2.toNat := by
    rw [place_or_toNat _ _ _ (by omega) (by omega), e2]
  rw [BitVec.or_assoc, place_or_toNat _ _ _ (by omega) (by omega), e1]

theorem colorDataWord_toNat (c : Color) :
    (colorDataWord c).toNat = 0x02 * 2 ^ 56 + c.r.toNat * 2 ^ 16 + c.g.toNat * 2 ^ 8 + c.b.toNat := by
  have h0 := c.r.isLt
  have h1 := c.g.isLt
  have h2 := c.b.isLt
  have e := byteWord_toNat c.r c.g c.b
  rw [colorDataWord, dataWord, colorWord, place_or_toNat _ _ _ (by omega) (by omega), e]
  rw [show (0x02 : BitVec 7).toNat = 0x02 from rfl]
  omega

theorem pulseWord_toNat (b0 b1 b2 b3 : Byte) :
    (pulseWord b0 b1 b2 b3).toNat =
      0x03 * 2 ^ 56 + b0.toNat * 2 ^ 24 + b1.toNat * 2 ^ 16 + b2.toNat * 2 ^ 8 + b3.toNat := by
  have h0 := b0.isLt
  have h1 := b1.isLt
  have h2 := b2.isLt
  have h3 := b3.isLt
  have e := byteWord_toNat b1 b2 b3
  have e0 : (place b0 24 ||| (place b1 16 ||| place b2 8 ||| place b3 0)).toNat =
      b0.toNat * 2 ^ 24 + (b1.toNat * 2 ^ 16 + (b2.toNat * 2 ^ 8 + b3.toNat)) := by
    rw [place_or_toNat _ _ _ (by omega) (by omega), e]
  have ea : place b0 24 ||| place b1 16 ||| place b2 8 ||| place b3 0 =
      place b0 24 ||| (place b1 16 ||| place b2 8 ||| place b3 0) := by
    simp only [BitVec.or_assoc]
  rw [pulseWord, dataWord, ea, place_or_toNat _ _ _ (by omega) (by omega), e0]
  rw [show (0x03 : BitVec 7).toNat = 0x03 from rfl]
  omega

theorem indexWord_toNat {index : Nat} (h : index < 2 ^ 16) :
    (indexWord index).toNat = 0x01 * 2 ^ 56 + index := by
  have e : (place (BitVec.ofNat 16 index) 0).toNat = index := by
    rw [place_toNat _ _ (by omega), BitVec.toNat_ofNat, Nat.mod_eq_of_lt h, Nat.pow_zero, Nat.mul_one]
  rw [indexWord, dataWord, place_or_toNat _ _ _ (by omega) (by omega), e]
  rfl

theorem shiftOpWord_toNat (op : ShiftOp) (h1 : op.start < 2 ^ 16) (h2 : op.length < 2 ^ 16)
    (h3 : op.steps < 2 ^ 16) :
    (shiftOpWord op).toNat = 0x04 * 2 ^ 56 + op.start * 2 ^ 40 + op.length * 2 ^ 24 + op.steps * 2 ^ 8 +
      op.direction.bit.toNat := by
  have hb : op.direction.bit.toNat < 2 := op.direction.bit.isLt
  have m1 : (BitVec.ofNat 16 op.start).toNat = op.start := by
    rw [BitVec.toNat_ofNat, Nat.mod_eq_of_lt h1]
  have m2 : (BitVec.ofNat 16 op.length).toNat = op.length := by
    rw [BitVec.toNat_ofNat, Nat.mod_eq_of_lt h2]
  have m3 : (BitVec.ofNat 16 op.steps).toNat = op.steps := by
    rw [BitVec.toNat_ofNat, Nat.mod_eq_of_lt h3]
  have e0 : (place op.direction.bit 0).toNat = op.direction.bit.toNat := by
    rw [place_toNat _ _ (by omega), Nat.pow_zero, Nat.mul_one]
  have e1 : (place (BitVec.ofNat 16 op.steps) 8 ||| place op.direction.bit 0).toNat =
      op.steps * 2 ^ 8 + op.direction.bit.toNat := by
    rw [place_or_toNat _ _ _ (by omega) (by omega), e0, m3]
  have e2 : (place (BitVec.ofNat 16 op.length) 24 |||
      (place (BitVec.ofNat 16 op.steps) 8 ||| place op.direction.bit 0)).toNat =
      op.length * 2 ^ 24 + (op.steps * 2 ^ 8 + op.direction.bit.toNat) := by
    rw [place_or_toNat _ _ _ (by omega) (by omega), e1, m2]
  have e3 : (place (BitVec.ofNat 16 op.start) 40 ||| (place (BitVec.ofNat 16 op.length) 24 |||
      (place (BitVec.ofNat 16 op.steps) 8 ||| place op.direction.bit 0))).toNat =
      op.start * 2 ^ 40 + (op.length * 2 ^ 24 + (op.steps * 2 ^ 8 + op.direction.bit.toNat)) := by
    rw [place_or_toNat _ _ _ (by omega) (by omega), e2, m1]
  rw [shiftOpWord, dataWord]
  simp only [BitVec.or_assoc]
  rw [place_or_toNat _ _ _ (by omega) (by omega), e3]
  rw [show (0x04 : BitVec 7).toNat = 0x04 from rfl]
  omega

/-! ### Pulse blocks -/

theorem pulse_length (p : Params) (t : TimingProfile) (b : Bool) : (pulse p t b).length = 4 := by
  cases b <;> rfl

@[simp] theorem bitseq_length (c : Color) : (bitseq c).length = 24 := by simp [bitseq]

/-- "The result is always exactly 96 bytes" (40_pulse_encoder.md R113). -/
@[simp] theorem encodeColor_length (p : Params) (c : Color) (t : TimingProfile) :
    (encodeColor p c t).length = 96 := by
  unfold encodeColor
  rw [length_flatMap_blocks _ 4 (fun b => pulse_length p t b), bitseq_length]

@[simp] theorem blocks_length (s : State) (cs : List Color) : (s.blocks cs).length = 96 * cs.length :=
  length_flatMap_blocks _ 96 (fun _ => encodeColor_length _ _ _) cs

theorem blocks_rotate (s : State) (dir : Direction) (cs : List Color) (k : Nat) :
    rotate dir (s.blocks cs) (96 * k) = s.blocks (rotate dir cs k) :=
  rotate_flatMap_blocks _ 96 (fun _ => encodeColor_length _ _ _) dir cs k

theorem blocks_range (s : State) (cs : List Color) (a n : Nat) :
    ((s.blocks cs).drop (96 * a)).take (96 * n) = s.blocks ((cs.drop a).take n) := by
  unfold State.blocks
  rw [drop_flatMap_blocks _ 96 (fun _ => encodeColor_length _ _ _),
    take_flatMap_blocks _ 96 (fun _ => encodeColor_length _ _ _)]

theorem blocks_splice (s : State) (cs ds : List Color) (a : Nat) :
    splice (s.blocks cs) (96 * a) (s.blocks ds) = s.blocks (splice cs a ds) := by
  unfold splice
  rw [blocks_length, ← Nat.mul_add]
  unfold State.blocks
  rw [drop_flatMap_blocks _ 96 (fun _ => encodeColor_length _ _ _),
    take_flatMap_blocks _ 96 (fun _ => encodeColor_length _ _ _)]
  simp

/-! ### The buffer invariant in one equation -/

/-- The bytes the invariant gives BUF: the header, then one block per pixel (20_memory.md R51). -/
def State.image (s : State) : List Byte := s.params.header ++ s.blocks s.pix

theorem image_length (s : State) : s.image.length = s.params.headerBytes + 96 * s.pix.length := by
  simp [State.image, Params.headerBytes]

/-- Slice `i` of the image is the block of pixel `i`. -/
theorem image_slice (s : State) (i : Nat) (hi : i < s.pix.length) :
    (s.image.drop (s.slice i)).take 96 = encodeColor s.params (s.pix.getD i Color.black) s.tp := by
  have h1 : s.image.drop (s.slice i) = (s.blocks s.pix).drop (96 * i) := by
    unfold State.image State.slice Params.headerBytes
    rw [← List.drop_drop, List.drop_left' rfl, Nat.mul_comm]
  have h2 := blocks_range s s.pix i 1
  rw [h1, show (96 : Nat) = 96 * 1 from rfl, h2]
  have h3 : (s.pix.drop i).take 1 = [s.pix.getD i Color.black] := by
    rw [List.drop_eq_getElem_cons hi]
    simp [List.getD_eq_getElem?_getD, hi, List.take_one]
  simp [h3, State.blocks]

/-- Two sequences of `n` blocks of `b` elements that agree block by block are equal. -/
theorem eq_of_blocks {α : Type} {b n : Nat} {xs ys : List α} (hx : xs.length = b * n)
    (hy : ys.length = b * n)
    (h : ∀ i, i < n → (xs.drop (b * i)).take b = (ys.drop (b * i)).take b) : xs = ys := by
  induction n generalizing xs ys with
  | zero =>
    have h1 : xs = [] := List.eq_nil_of_length_eq_zero (by simpa using hx)
    have h2 : ys = [] := List.eq_nil_of_length_eq_zero (by simpa using hy)
    rw [h1, h2]
  | succ n ih =>
    have h0 := h 0 (by omega)
    simp only [Nat.mul_zero, List.drop_zero] at h0
    have ht : xs.drop b = ys.drop b := by
      apply ih
      · rw [List.length_drop, hx, Nat.mul_succ]; omega
      · rw [List.length_drop, hy, Nat.mul_succ]; omega
      · intro i hi
        have := h (i + 1) (by omega)
        rw [Nat.mul_succ, Nat.add_comm] at this
        simpa [List.drop_drop] using this
    rw [← List.take_append_drop b xs, ← List.take_append_drop b ys, h0, ht]

/-- INV1, INV2, INV3 and the length of PIX say exactly that BUF is the array of the image. -/
theorem bufferInv_iff (s : State) :
    BufferInv s ↔ s.buf = Memory.cellsAt 0 s.image ∧ s.pix.length = s.n.toNat := by
  constructor
  · rintro ⟨h1, h2, h3, h4⟩
    refine ⟨?_, h4⟩
    rw [List.range_eq_range'] at h1
    have hb := Memory.eq_cellsAt_of_map_fst h1
    rw [hb] at h2 h3 ⊢
    simp only [Memory.readBytes_cellsAt] at h2 h3
    have hlen : (s.buf.map Prod.snd).length = s.bufLength := by
      have := congrArg List.length h1
      simpa using this
    congr 1
    have hsplit := List.take_append_drop s.params.headerBytes (s.buf.map Prod.snd)
    simp only [List.drop_zero] at h2
    rw [h2] at hsplit
    rw [← hsplit]
    unfold State.image
    congr 1
    apply eq_of_blocks (b := 96) (n := s.pix.length)
    · simp only [List.length_drop, hlen, State.bufLength, h4]
      omega
    · simp
    · intro i hi
      have a := h3 i (by omega)
      have b := image_slice s i hi
      rw [← b] at a
      have c : s.image.drop (s.slice i) = (s.blocks s.pix).drop (96 * i) := by
        unfold State.image State.slice Params.headerBytes
        rw [← List.drop_drop, List.drop_left' rfl, Nat.mul_comm]
      rw [c] at a
      rw [← a, List.drop_drop]
      congr 2
      unfold State.slice
      omega
  · rintro ⟨h1, h2⟩
    have hl := image_length s
    refine ⟨?_, ?_, ?_, h2⟩
    · rw [h1, Memory.cellsAt_map_fst, List.range_eq_range', hl, State.bufLength, h2]
      congr 1
      omega
    · rw [h1, Memory.readBytes_cellsAt]
      simp [State.image, Params.headerBytes]
    · intro i hi
      rw [h1, Memory.readBytes_cellsAt, image_slice s i (by omega)]

/-- A state with the pixels `p`, the buffer that encodes them, and the transmissions in flight marked. -/
def State.withPix (s : State) (p : List Color) : State :=
  (s.touchTx.setPix p).setBuf (Memory.cellsAt 0 (s.params.header ++ s.blocks p))

theorem bufferInv_withPix (s : State) (p : List Color) (h : p.length = s.n.toNat) :
    BufferInv (s.withPix p) :=
  (bufferInv_iff _).2 ⟨rfl, h⟩

theorem withPix_self {s : State} (h : BufferInv s) : s.withPix s.pix = s.touchTx := by
  have := ((bufferInv_iff s).1 h).1
  cases s
  simp only [State.withPix, State.touchTx, State.image] at *
  rw [this]
  rfl

theorem withPix_withPix (s : State) (p q : List Color) :
    (s.withPix p).withPix q = s.withPix q := by
  simp [State.withPix, State.setBuf, State.setPix, State.touchTx, State.blocks, Function.comp_def,
    Transmission.touch]

/-! ### Reading and writing inside the buffer -/

theorem readBuf_of_bufferInv {s : State} (h : BufferInv s) {a n : Nat} (hb : a + n ≤ s.bufLength) :
    s.readBuf a n = .ok ((s.image.drop a).take n) := by
  obtain ⟨h1, h2⟩ := (bufferInv_iff s).1 h
  have hl := image_length s
  unfold State.readBuf
  rw [h1, Memory.readBytes_cellsAt, if_pos]
  unfold State.bufLength at hb
  rw [List.length_take, List.length_drop]
  omega

/-- The whole buffer. -/
theorem readBuf_all {s : State} (h : BufferInv s) : s.readBuf 0 s.bufLength = .ok s.image := by
  obtain ⟨_, h2⟩ := (bufferInv_iff s).1 h
  rw [readBuf_of_bufferInv h (by omega), List.drop_zero, List.take_of_length_le]
  rw [image_length, State.bufLength, h2]
  omega

/-- Writing into an array: the byte range is replaced. -/
theorem writeBuf_array {s : State} {v : List Byte} (h : s.buf = Memory.cellsAt 0 v) {a : Nat}
    {u : List Byte} (hb : a + u.length ≤ v.length) :
    s.writeBuf a u = .ok (s.setBuf (Memory.cellsAt 0 (splice v a u))) := by
  unfold State.writeBuf
  rw [h, Memory.readBytes_cellsAt, if_pos (by rw [List.length_take, List.length_drop]; omega),
    Memory.writeBytes_cellsAt _ _ _ hb]

/-- Replacing blocks inside the image. -/
theorem splice_image (s : State) (start : Nat) (cs : List Color) :
    splice s.image (s.slice start) (s.blocks cs) =
      s.params.header ++ s.blocks (splice s.pix start cs) := by
  rw [← blocks_splice]
  unfold splice State.image State.slice Params.headerBytes
  rw [show s.params.header.length + start * 96 + (s.blocks cs).length =
      s.params.header.length + (96 * start + (s.blocks cs).length) by ring,
    show s.params.header.length + start * 96 = s.params.header.length + 96 * start by ring,
    List.take_length_add_append, ← List.drop_drop, List.drop_left' rfl]
  simp [List.append_assoc]

/-! ### The array operations on a state that meets the invariant -/

/-- What `SliceWrite` over a range does (20_memory.md R55). -/
theorem writeSlices_eq {s : State} (h : BufferInv s) {start : Nat} {cs : List Color}
    (hb : start + cs.length ≤ s.n.toNat) :
    s.writeSlices start cs = .ok (if cs = [] then s else s.withPix (splice s.pix start cs)) := by
  obtain ⟨h1, h2⟩ := (bufferInv_iff s).1 h
  unfold State.writeSlices State.writePix
  split
  · rfl
  rw [touchTx_pix, if_pos (by omega)]
  simp only [setPix_slice, touchTx_slice, setPix_blocks, touchTx_blocks]
  rw [writeBuf_array (v := s.image) (by simpa using h1), splice_image]
  · rfl
  · rw [image_length, blocks_length, State.slice]
    omega

/-- What `RangeRotate` does (20_memory.md R55). -/
theorem rangeRotate_eq {s : State} (h : BufferInv s) {start length steps : Nat} {dir : Direction}
    (hb : start + length ≤ s.n.toNat) :
    s.rangeRotate start length steps dir =
      .ok (if length = 0 then s
        else s.withPix (splice s.pix start (rotate dir ((s.pix.drop start).take length) steps))) := by
  obtain ⟨h1, h2⟩ := (bufferInv_iff s).1 h
  unfold State.rangeRotate
  by_cases h0 : length = 0
  · rw [if_pos h0, if_pos h0]
  · have hlen : ((s.pix.drop start).take length).length = length := by simp; omega
    have hrl : (rotate dir ((s.pix.drop start).take length) steps).length = length := by simp; omega
    have hread : s.readBuf (s.slice start) (96 * length) =
        .ok (s.blocks ((s.pix.drop start).take length)) := by
      rw [readBuf_of_bufferInv h (by unfold State.slice State.bufLength; omega)]
      congr 1
      rw [← blocks_range]
      congr 1
      unfold State.image State.slice Params.headerBytes
      rw [← List.drop_drop, List.drop_left' rfl, Nat.mul_comm]
    simp only [h0, if_false, touchTx_slice, touchTx_readBuf, hread, State.writePix, touchTx_pix, hrl]
    rw [if_pos (by omega)]
    simp only [setPix_slice, touchTx_slice]
    rw [writeBuf_array (v := s.image) (by simpa using h1), blocks_rotate, splice_image]
    · rfl
    · rw [image_length, rotate_length, blocks_length, State.slice, hlen]
      omega

/-- The pixels after shift operations applied one after the other. -/
def applyRows (p : List Color) : List ShiftOp → List Color
  | [] => p
  | op :: ops =>
      applyRows (splice p op.start (rotate op.direction ((p.drop op.start).take op.length) op.steps)) ops

theorem applyRows_length (p : List Color) (ops : List ShiftOp)
    (h : ∀ op ∈ ops, op.start + op.length ≤ p.length) : (applyRows p ops).length = p.length := by
  induction ops generalizing p with
  | nil => rfl
  | cons op ops ih =>
    have h0 := h op (by simp)
    have hs : (splice p op.start
        (rotate op.direction ((p.drop op.start).take op.length) op.steps)).length = p.length :=
      splice_length _ _ _ (by simp; omega)
    unfold applyRows
    rw [ih _ (fun o ho => by rw [hs]; exact h o (by simp [ho])), hs]

/-- A rotation of no pixel leaves the pixels as they are. -/
theorem splice_rotate_zero (p : List Color) (start steps : Nat) (dir : Direction) :
    splice p start (rotate dir ((p.drop start).take 0) steps) = p := by
  have : rotate dir ((p.drop start).take 0) steps = [] := List.eq_nil_of_length_eq_zero (by simp)
  rw [this]
  simp [splice]

theorem applyRows_of_lengths_zero (p : List Color) (ops : List ShiftOp)
    (h : ∀ op ∈ ops, op.length = 0) : applyRows p ops = p := by
  induction ops with
  | nil => rfl
  | cons op ops ih =>
    rw [applyRows, h op (by simp), splice_rotate_zero, ih fun o ho => h o (by simp [ho])]

/-- What a list of shift operations does. Where none of them has a length nothing is written. -/
theorem rotateRows_eq {s : State} (h : BufferInv s) {ops : List ShiftOp}
    (hb : ∀ op ∈ ops, op.start + op.length ≤ s.n.toNat) :
    s.rotateRows ops =
      .ok (if ∀ op ∈ ops, op.length = 0 then s else s.withPix (applyRows s.pix ops)) := by
  induction ops generalizing s with
  | nil => rfl
  | cons op ops ih =>
    have hp := h.2.2.2
    have h0 := hb op (by simp)
    have ht : ∀ o ∈ ops, o.start + o.length ≤ s.n.toNat := fun o ho => hb o (by simp [ho])
    unfold State.rotateRows
    rw [rangeRotate_eq h h0]
    by_cases hz : op.length = 0
    · simp only [hz, if_true, ih h ht, List.forall_mem_cons, true_and, applyRows, splice_rotate_zero]
    · have hs : (splice s.pix op.start
          (rotate op.direction ((s.pix.drop op.start).take op.length) op.steps)).length = s.n.toNat := by
        rw [splice_length _ _ _ (by simp; omega), hp]
      simp only [hz, if_false, List.forall_mem_cons, false_and]
      rw [ih (bufferInv_withPix s _ hs) ht]
      split
      · next ha => rw [applyRows, applyRows_of_lengths_zero _ _ ha]
      · rw [withPix_withPix, applyRows]
        rfl

/-- What construction does to N, TP, BUF and PIX (41_command_buffer.md R121; 10_state.md R37). -/
theorem construct_eq (s : State) (n : BitVec 16) (t : TimingProfile) :
    s.construct n t = (s.setSession n t).withPix (List.replicate n.toNat Color.black) := by
  unfold State.construct
  simp only [touchTx_params, setPix_params, setSession_params, touchTx_slice, setPix_slice,
    touchTx_blocks, setPix_blocks, touchTx_pix, setPix_pix]
  have hs : (s.setSession n t).slice 0 = s.params.header.length := by
    simp [State.slice, Params.headerBytes]
  have hl : (((s.setSession n t).setPix (List.replicate n.toNat Color.black)).touchTx).bufLength =
      n.toNat * 96 + s.params.header.length := rfl
  have hp : ∀ (x y : List Byte), x.length = 96 * n.toNat →
      splice (s.params.header ++ y) s.params.header.length x = s.params.header ++ splice y 0 x := by
    intro x y _
    simp [splice, ← List.drop_drop, List.append_assoc]
  rw [hs, hl, Memory.newArray, Memory.writeBytes_cellsAt _ _ _ (by simp), splice_zero,
    Memory.writeBytes_cellsAt _ _ _ (by simp; omega), hp _ _ (by simp), splice_all _ _ (by simp; omega)]
  rfl

/-! ### The canonical form, on every state -/

theorem writeBuf_wf {s t : State} {a : Nat} {v : List Byte} (h : s.buf.wf) (e : s.writeBuf a v = .ok t) :
    t.buf.wf := by
  unfold State.writeBuf at e
  split at e
  · cases e
    exact Memory.writeBytes_wf h a v
  · cases e

theorem writePix_buf {s t : State} {a : Nat} {cs : List Color} (e : s.writePix a cs = .ok t) :
    t.buf = s.buf := by
  unfold State.writePix at e
  split at e
  · cases e; rfl
  · cases e

/-- `SliceWrite` keeps the canonical form. -/
theorem writeSlices_wf {s t : State} {a : Nat} {cs : List Color} (h : s.buf.wf)
    (e : s.writeSlices a cs = .ok t) : t.buf.wf := by
  unfold State.writeSlices at e
  split at e
  · cases e; exact h
  · split at e
    · cases e
    · next u hu => exact writeBuf_wf (by rw [writePix_buf hu]; exact h) e

/-- `RangeRotate` keeps the canonical form. -/
theorem rangeRotate_wf {s t : State} {a l k : Nat} {dir : Direction} (h : s.buf.wf)
    (e : s.rangeRotate a l k dir = .ok t) : t.buf.wf := by
  unfold State.rangeRotate at e
  simp only at e
  split at e
  · cases e; exact h
  · split at e
    · next u _ hu _ => exact writeBuf_wf (by rw [writePix_buf hu]; exact h) e
    · cases e
    · cases e

/-- The rows' rotations keep the canonical form. -/
theorem rotateRows_wf {s t : State} {ops : List ShiftOp} (h : s.buf.wf) (e : s.rotateRows ops = .ok t) :
    t.buf.wf := by
  induction ops generalizing s with
  | nil => cases e; exact h
  | cons op ops ih =>
    unfold State.rotateRows at e
    split at e
    · cases e
    · next u hu => exact ih (rangeRotate_wf h hu) e

/-- Construction gives a buffer in canonical form. -/
theorem construct_wf (s : State) (n : BitVec 16) (tp : TimingProfile) : (s.construct n tp).buf.wf := by
  rw [construct_eq]
  exact Memory.wf_cellsAt _ _

/-- A grid write inside the grid. -/
theorem writeGrid_eq {s : State} {a : Nat} (c : Color) (h : a < s.grid.length) :
    s.writeGrid a c = .ok (s.setGrid (s.grid.set a c)) := by
  simp [State.writeGrid, h]

/-- What `TxSend` does on a state that meets the buffer invariant (60_exceptions.md R201): the whole
buffer is handed over. -/
theorem txSend_eq {s : State} (h : BufferInv s) (wait : Bool) :
    s.txSend wait =
      .ok (((s.startTransmission s.image).present (.send wait s.image)).answer
        (if wait then [s.txSerial] else [])) := by
  unfold State.txSend
  rw [readBuf_all h]

/-! ### The command port -/

/-- A ready core takes the next word of the command port. -/
theorem step_accept {s : State} (h : Ready s) {w : Word} {ws : List Word} (hc : s.cmd = w :: ws) :
    step s = acceptWord w (s.setCmd ws) := by
  unfold step stepMove turn
  simp only [h.1, h.2.1, h.2.2, hc]

/-- A run that goes on after its first step. -/
theorem run_of_next {s t : State} (k : Nat) (h : step s = .next t) :
    Host.Core.run Sys2Proof.core (k + 1) s = Host.Core.run Sys2Proof.core k t := by
  have general : ∀ (M : Host.Core) (a b : M.State), M.step a = .next b → M.run (k + 1) a = M.run k b := by
    intro M a b e
    rw [Host.Core.run, e]
  exact general Sys2Proof.core s t h

/-- A run of one step. -/
theorem run_one (s : State) : Host.Core.run Sys2Proof.core 1 s = step s := by
  have general : ∀ (M : Host.Core) (a : M.State), M.run 1 a = M.step a := by
    intro M a
    rw [Host.Core.run]
    cases M.step a <;> rfl
  exact general Sys2Proof.core s

end Sys2Proof.Machine
end

