-- ==== Sys2Proof/Laws/Frames.lean ====
section
/-! SUPPORT. What each shared operation can change, on every state, and what a command can do: the cases of
`exec` in one lemma, which proofs over all commands cite. -/

namespace Sys2Proof.Machine

/-- `s` with other pixels and another buffer, the transmissions in flight marked as raced. -/
def State.written (s : State) (p : List Color) (b : Memory) : State := (s.touchTx.setPix p).setBuf b

@[simp] theorem written_params (s : State) (p : List Color) (b : Memory) :
    (s.written p b).params = s.params := rfl
@[simp] theorem written_life (s : State) (p : List Color) (b : Memory) :
    (s.written p b).life = s.life := rfl
@[simp] theorem written_n (s : State) (p : List Color) (b : Memory) :
    (s.written p b).n = s.n := rfl
@[simp] theorem written_tp (s : State) (p : List Color) (b : Memory) :
    (s.written p b).tp = s.tp := rfl
@[simp] theorem written_w (s : State) (p : List Color) (b : Memory) :
    (s.written p b).w = s.w := rfl
@[simp] theorem written_h (s : State) (p : List Color) (b : Memory) :
    (s.written p b).h = s.h := rfl
@[simp] theorem written_mode (s : State) (p : List Color) (b : Memory) :
    (s.written p b).mode = s.mode := rfl
@[simp] theorem written_buf (s : State) (p : List Color) (b : Memory) :
    (s.written p b).buf = b := rfl
@[simp] theorem written_pix (s : State) (p : List Color) (b : Memory) :
    (s.written p b).pix = p := rfl
@[simp] theorem written_grid (s : State) (p : List Color) (b : Memory) :
    (s.written p b).grid = s.grid := rfl
@[simp] theorem written_dec (s : State) (p : List Color) (b : Memory) :
    (s.written p b).dec = s.dec := rfl
@[simp] theorem written_rsp (s : State) (p : List Color) (b : Memory) :
    (s.written p b).rsp = s.rsp := rfl
@[simp] theorem written_txCall (s : State) (p : List Color) (b : Memory) :
    (s.written p b).txCall = s.txCall := rfl
@[simp] theorem written_cmd (s : State) (p : List Color) (b : Memory) :
    (s.written p b).cmd = s.cmd := rfl
@[simp] theorem written_rspReady (s : State) (p : List Color) (b : Memory) :
    (s.written p b).rspReady = s.rspReady := rfl
@[simp] theorem written_taken (s : State) (p : List Color) (b : Memory) :
    (s.written p b).taken = s.taken := rfl
@[simp] theorem written_txq (s : State) (p : List Color) (b : Memory) :
    (s.written p b).txq = s.txq.map Transmission.touch := rfl
@[simp] theorem written_txSerial (s : State) (p : List Color) (b : Memory) :
    (s.written p b).txSerial = s.txSerial := rfl
@[simp] theorem written_txPlan (s : State) (p : List Color) (b : Memory) :
    (s.written p b).txPlan = s.txPlan := rfl
@[simp] theorem written_txCalls (s : State) (p : List Color) (b : Memory) :
    (s.written p b).txCalls = s.txCalls := rfl
@[simp] theorem written_strip (s : State) (p : List Color) (b : Memory) :
    (s.written p b).strip = s.strip := rfl
@[simp] theorem written_schedule (s : State) (p : List Color) (b : Memory) :
    (s.written p b).schedule = s.schedule := rfl

@[simp] theorem withPix_params (s : State) (p : List Color) :
    (s.withPix p).params = s.params := rfl
@[simp] theorem withPix_life (s : State) (p : List Color) :
    (s.withPix p).life = s.life := rfl
@[simp] theorem withPix_n (s : State) (p : List Color) :
    (s.withPix p).n = s.n := rfl
@[simp] theorem withPix_tp (s : State) (p : List Color) :
    (s.withPix p).tp = s.tp := rfl
@[simp] theorem withPix_w (s : State) (p : List Color) :
    (s.withPix p).w = s.w := rfl
@[simp] theorem withPix_h (s : State) (p : List Color) :
    (s.withPix p).h = s.h := rfl
@[simp] theorem withPix_mode (s : State) (p : List Color) :
    (s.withPix p).mode = s.mode := rfl
@[simp] theorem withPix_buf (s : State) (p : List Color) :
    (s.withPix p).buf = Memory.cellsAt 0 (s.params.header ++ s.blocks p) := rfl
@[simp] theorem withPix_pix (s : State) (p : List Color) :
    (s.withPix p).pix = p := rfl
@[simp] theorem withPix_grid (s : State) (p : List Color) :
    (s.withPix p).grid = s.grid := rfl
@[simp] theorem withPix_dec (s : State) (p : List Color) :
    (s.withPix p).dec = s.dec := rfl
@[simp] theorem withPix_rsp (s : State) (p : List Color) :
    (s.withPix p).rsp = s.rsp := rfl
@[simp] theorem withPix_txCall (s : State) (p : List Color) :
    (s.withPix p).txCall = s.txCall := rfl
@[simp] theorem withPix_cmd (s : State) (p : List Color) :
    (s.withPix p).cmd = s.cmd := rfl
@[simp] theorem withPix_rspReady (s : State) (p : List Color) :
    (s.withPix p).rspReady = s.rspReady := rfl
@[simp] theorem withPix_taken (s : State) (p : List Color) :
    (s.withPix p).taken = s.taken := rfl
@[simp] theorem withPix_txq (s : State) (p : List Color) :
    (s.withPix p).txq = s.txq.map Transmission.touch := rfl
@[simp] theorem withPix_txSerial (s : State) (p : List Color) :
    (s.withPix p).txSerial = s.txSerial := rfl
@[simp] theorem withPix_txPlan (s : State) (p : List Color) :
    (s.withPix p).txPlan = s.txPlan := rfl
@[simp] theorem withPix_txCalls (s : State) (p : List Color) :
    (s.withPix p).txCalls = s.txCalls := rfl
@[simp] theorem withPix_strip (s : State) (p : List Color) :
    (s.withPix p).strip = s.strip := rfl
@[simp] theorem withPix_schedule (s : State) (p : List Color) :
    (s.withPix p).schedule = s.schedule := rfl

@[simp] theorem written_slice (s : State) (p : List Color) (b : Memory) (i : Nat) :
    (s.written p b).slice i = s.slice i := rfl
@[simp] theorem written_blocks (s : State) (p : List Color) (b : Memory) (cs : List Color) :
    (s.written p b).blocks cs = s.blocks cs := rfl
@[simp] theorem written_bufLength (s : State) (p : List Color) (b : Memory) :
    (s.written p b).bufLength = s.bufLength := rfl
@[simp] theorem withPix_slice (s : State) (p : List Color) (i : Nat) :
    (s.withPix p).slice i = s.slice i := rfl
@[simp] theorem withPix_blocks (s : State) (p : List Color) (cs : List Color) :
    (s.withPix p).blocks cs = s.blocks cs := rfl
@[simp] theorem withPix_bufLength (s : State) (p : List Color) :
    (s.withPix p).bufLength = s.bufLength := rfl
@[simp] theorem respond_slice (s : State) (data : List Word) (e : Status) (i : Nat) :
    (s.respond data e).slice i = s.slice i := rfl
@[simp] theorem respond_blocks (s : State) (data : List Word) (e : Status) (cs : List Color) :
    (s.respond data e).blocks cs = s.blocks cs := rfl
@[simp] theorem respond_bufLength (s : State) (data : List Word) (e : Status) :
    (s.respond data e).bufLength = s.bufLength := rfl
@[simp] theorem setDec_slice (s : State) (d : Dec) (i : Nat) :
    (s.setDec d).slice i = s.slice i := rfl
@[simp] theorem setDec_blocks (s : State) (d : Dec) (cs : List Color) :
    (s.setDec d).blocks cs = s.blocks cs := rfl
@[simp] theorem setDec_bufLength (s : State) (d : Dec) :
    (s.setDec d).bufLength = s.bufLength := rfl
@[simp] theorem setCmd_slice (s : State) (ws : List Word) (i : Nat) :
    (s.setCmd ws).slice i = s.slice i := rfl
@[simp] theorem setCmd_blocks (s : State) (ws : List Word) (cs : List Color) :
    (s.setCmd ws).blocks cs = s.blocks cs := rfl
@[simp] theorem setCmd_bufLength (s : State) (ws : List Word) :
    (s.setCmd ws).bufLength = s.bufLength := rfl

/-! ### The array operations -/

theorem writePix_frame {s t : State} {a : Nat} {cs : List Color} (e : s.writePix a cs = .ok t) :
    ∃ p, t = s.setPix p := by
  unfold State.writePix at e
  split at e
  · cases e; exact ⟨_, rfl⟩
  · cases e

theorem writeBuf_frame {s t : State} {a : Nat} {v : List Byte} (e : s.writeBuf a v = .ok t) :
    ∃ b, t = s.setBuf b := by
  unfold State.writeBuf at e
  split at e
  · cases e; exact ⟨_, rfl⟩
  · cases e

/-- `SliceWrite` changes PIX, BUF and the marks of the transmissions in flight only; with no colour it
changes nothing. -/
theorem writeSlices_frame {s t : State} {a : Nat} {cs : List Color} (e : s.writeSlices a cs = .ok t) :
    (cs = [] ∧ t = s) ∨ (cs ≠ [] ∧ ∃ p b, t = s.written p b) := by
  unfold State.writeSlices at e
  split at e
  · next h => cases e; exact .inl ⟨h, rfl⟩
  · next h =>
    split at e
    · cases e
    · next u hu =>
      obtain ⟨p, rfl⟩ := writePix_frame hu
      obtain ⟨b, rfl⟩ := writeBuf_frame e
      exact .inr ⟨h, p, b, rfl⟩

/-- `RangeRotate` changes PIX, BUF and the marks of the transmissions in flight only; with no length it
changes nothing. -/
theorem rangeRotate_frame {s t : State} {a l k : Nat} {dir : Direction}
    (e : s.rangeRotate a l k dir = .ok t) :
    (l = 0 ∧ t = s) ∨ (l ≠ 0 ∧ ∃ p b, t = s.written p b) := by
  unfold State.rangeRotate at e
  split at e
  · next h => cases e; exact .inl ⟨h, rfl⟩
  · next h =>
    simp only at e
    split at e
    · next u _ hu _ =>
      obtain ⟨p, rfl⟩ := writePix_frame hu
      obtain ⟨b, rfl⟩ := writeBuf_frame e
      exact .inr ⟨h, p, b, rfl⟩
    · cases e
    · cases e

theorem written_written (s : State) (p q : List Color) (b c : Memory) :
    (s.written p b).written q c = s.written q c := by
  simp [State.written, State.setBuf, State.setPix, State.touchTx, Function.comp_def, Transmission.touch]

/-- The rows' rotations change PIX, BUF and the marks only; where no row has a length they change
nothing. -/
theorem rotateRows_frame {s t : State} {ops : List ShiftOp} (e : s.rotateRows ops = .ok t) :
    ((∀ op ∈ ops, op.length = 0) ∧ t = s) ∨
      (¬ (∀ op ∈ ops, op.length = 0) ∧ ∃ p b, t = s.written p b) := by
  induction ops generalizing s with
  | nil => cases e; exact .inl ⟨by simp, rfl⟩
  | cons op ops ih =>
    unfold State.rotateRows at e
    split at e
    · cases e
    · next u hu =>
      simp only [List.forall_mem_cons]
      obtain ⟨h0, rfl⟩ | ⟨h0, p, b, rfl⟩ := rangeRotate_frame hu
      · simpa only [h0, true_and] using ih e
      · refine .inr ⟨fun h => h0 h.1, ?_⟩
        obtain ⟨_, rfl⟩ | ⟨_, q, c, rfl⟩ := ih e
        · exact ⟨p, b, rfl⟩
        · exact ⟨q, c, written_written _ _ _ _ _⟩

/-- The permuted grid is empty exactly where the grid has no cell. -/
theorem permuteGrid_eq_nil {s : State} {m : WiringMode} {q : List Color} (e : s.permuteGrid m = .ok q) :
    q = [] ↔ (s.w.toNat = 0 ∨ s.h.toNat = 0) := by
  unfold State.permuteGrid at e
  split at e
  · cases e
    simp [permute]
  · cases e

/-- No row has a length exactly where there is no row or no column. -/
theorem toStripShift_lengths_zero (m : WiringMode) (rows width steps : Nat) :
    (∀ op ∈ toStripShift m rows width steps, op.length = 0) ↔ (width = 0 ∨ rows = 0) := by
  cases rows with
  | zero => simp [toStripShift]
  | succ n =>
    simp only [toStripShift, List.forall_mem_map, List.mem_range, Nat.add_eq_zero_iff, one_ne_zero,
      and_false, or_false]
    exact ⟨fun h => h 0 (Nat.succ_pos n), fun h _ _ => h⟩

/-- A range check reports an error or nothing. -/
theorem shiftError_ne_ok {n start length steps : BitVec 16} {e : Status}
    (h : shiftError n start length steps = some e) : e ≠ .ok := by
  unfold shiftError at h
  split at h
  · cases h; decide
  · split at h
    · cases h; decide
    · cases h

/-! ### The transmitter port -/

/-- A completion changes TXQ and what the strip has received only. -/
theorem complete_frame (s : State) (k : Nat) :
    ∃ q d, s.complete k = { s with txq := q, strip := d } := by
  unfold State.complete
  split
  · exact ⟨s.txq, s.strip, rfl⟩
  · exact ⟨_, _, rfl⟩

/-- A completion puts nothing into TXQ. -/
theorem mem_txq_of_complete {s : State} {k : Nat} {x : Transmission} (h : x ∈ (s.complete k).txq) :
    x ∈ s.txq := by
  unfold State.complete at h
  split at h
  · exact h
  · exact List.mem_of_mem_filter h

/-- The completion of a serial number that is not in flight changes nothing (log 5). -/
theorem complete_of_not_mem {s : State} {k : Nat} (h : ∀ x ∈ s.txq, x.serial ≠ k) : s.complete k = s := by
  have hf : (s.txq.find? fun t => t.serial == k) = none := by
    rw [List.find?_eq_none]
    exact fun x hx => by simpa using h x hx
  unfold State.complete
  rw [hf]

/-- A transmission that has met no hazard delivers the bytes handed over (20_memory.md R61). -/
theorem delivered_of_clean {s : State} {x : Transmission} (h : CleanTxq s) (hx : x ∈ s.txq) :
    x.delivered s.params = x.bytes := by
  obtain ⟨ho, hc, hm⟩ := h x hx
  unfold Transmission.delivered
  cases hx' : x.mutated
  · simp [ho, hc]
  · simp [ho, hc, hm hx']

theorem completeAll_frame (s : State) (ks : List Nat) :
    ∃ q d, s.completeAll ks = { s with txq := q, strip := d } := by
  induction ks generalizing s with
  | nil => exact ⟨s.txq, s.strip, rfl⟩
  | cons k ks ih =>
    obtain ⟨q, d, e⟩ := complete_frame s k
    obtain ⟨q', d', e'⟩ := ih (s.complete k)
    exact ⟨q', d', by rw [State.completeAll, e', e]⟩

/-- The transmitter's answer: the call is outstanding afterwards where the transmitter does not return. -/
theorem answer_frame (s : State) (own : List Nat) :
    ∃ pl q d, s.answer own =
      { s with txPlan := pl, txq := q, strip := d, txCall := if s.callReturns then none else s.txCall } := by
  unfold State.answer
  split
  · next h =>
    obtain ⟨q, d, e⟩ := completeAll_frame s own
    have hc : s.callReturns = true := by simp [State.callReturns, h]
    exact ⟨s.txPlan, q, d, by rw [e, hc]; rfl⟩
  · next ks rest h =>
    obtain ⟨q, d, e⟩ := completeAll_frame (s.setPlan rest) ks
    obtain ⟨q', d', e'⟩ := completeAll_frame ((s.setPlan rest).completeAll ks) own
    have hc : s.callReturns = true := by simp [State.callReturns, h]
    exact ⟨rest, q', d', by rw [e', e, hc]; rfl⟩
  · next rest h =>
    have hc : s.callReturns = false := by simp [State.callReturns, h]
    exact ⟨rest, s.txq, s.strip, by rw [hc]; rfl⟩

/-- `TxSend` changes the transmitter's part only: the call is logged, and outstanding where the transmitter
does not return. -/
theorem txSend_frame {s t : State} {wait : Bool} (e : s.txSend wait = .ok t) :
    ∃ b pl q d, t =
      { s with
        txPlan := pl, txq := q, strip := d, txSerial := s.txSerial + 1
        txCalls := s.txCalls ++ [.send wait b]
        txCall := if s.callReturns then none else some (.send wait b) } := by
  unfold State.txSend at e
  split at e
  · cases e
  · next b hb =>
    cases e
    obtain ⟨pl, q, d, h⟩ := answer_frame ((s.startTransmission b).present (.send wait b))
      (if wait then [s.txSerial] else [])
    exact ⟨b, pl, q, d, by rw [h]; rfl⟩

/-- `TxRelease` changes the transmitter's part only. -/
theorem txRelease_frame (s : State) :
    ∃ pl q d, s.txRelease =
      { s with
        txPlan := pl, txq := q, strip := d, txCalls := s.txCalls ++ [.release]
        txCall := if s.callReturns then none else some .release } := by
  obtain ⟨pl, q, d, h⟩ := answer_frame (s.cutAll.present .release) []
  exact ⟨pl, q, d, by rw [State.txRelease, h]; rfl⟩

/-! ### The commands -/

/-- What a command that goes on can do, in six forms. -/
inductive Effect (i : Instr) (s : State) : State → Prop where
  /-- only a response: an error, or a command that writes nothing and calls nothing, a release after the
  release among them -/
  | response (data : List Word) (e : Status) (h : e ≠ .ok → data = [])
      (hb : e = .ok → writesBytes i s = false)
      (hc : e = .ok → callsTransmitter i = true → i = .cbRelease ∧ s.life = .released) :
      Effect i s (s.respond data e)
  /-- a cell of the grid -/
  | cell (x y : BitVec 8) (c : Color) (g : List Color) (hi : i = .dispSetPixel x y c)
      (hl : s.life = .dispLive) : Effect i s ((s.setGrid g).respond [] .ok)
  /-- a construction of a CommandBuffer -/
  | buffer (n : BitVec 16) (tp : TimingProfile) (hi : i = .cbNew n tp) (hl : s.life = .empty) :
      Effect i s ((((s.setSession n tp).withPix (List.replicate n.toNat Color.black)).setLife
        .cbLive).respond [] .ok)
  /-- a construction of a Display -/
  | display (w h m : BitVec 8) (tp : TimingProfile) (hi : i = .dispNew w h m tp) (hl : s.life = .empty) :
      Effect i s ((((((s.setGeometry w h m).setSession (BitVec.ofNat 16 (w.toNat * h.toNat)) tp).withPix
        (List.replicate (BitVec.ofNat 16 (w.toNat * h.toNat)).toNat Color.black)).setGrid
        (List.replicate (BitVec.ofNat 16 (w.toNat * h.toNat)).toNat Color.black)).setLife
        .dispLive).respond [] .ok)
  /-- pixels and buffer -/
  | arrays (p : List Color) (b : Memory) (data : List Word) (hw : writesBytes i s = true)
      (hc : callsTransmitter i = false) (hl : s.life.live = true) :
      Effect i s ((s.written p b).respond data .ok)
  /-- a send, after a write of the arrays or without one -/
  | send (u t : State) (wait : Bool)
      (hu : (writesBytes i s = false ∧ u = s) ∨ (writesBytes i s = true ∧ ∃ p b, u = s.written p b))
      (hc : callsTransmitter i = true) (hi : i ≠ .cbRelease) (hl : s.life.live = true)
      (e : sendAndFinish u wait = .next t) : Effect i s t
  /-- a release -/
  | release (hi : i = .cbRelease) (hl : s.life.live = true) :
      Effect i s (match s.txRelease.txCall with
        | none => (s.txRelease.setLife .released).respond [] .ok
        | some _ => s.txRelease)

/-- A command that writes a byte of BUF is one of those the spec lists as writing it (10_state.md R26). -/
theorem writesBuf_of_writesBytes {i : Instr} {s : State} (h : writesBytes i s = true) :
    writesBuf i = true := by
  cases i <;> first | rfl | cases h

theorem commit_next {r : Except Fault State} {t : State} (h : commit r = .next t) :
    ∃ u, r = .ok u ∧ t = u.respond [] .ok := by
  unfold commit done at h
  split at h
  · next u => cases h; exact ⟨u, rfl, rfl⟩
  · cases h

theorem raise_effect {i : Instr} {s t : State} {e : Status} (h : raise s e = .next t)
    (he : e ≠ .ok := by decide) : Effect i s t := by
  unfold raise at h
  cases h
  exact .response [] e (fun _ => rfl) (fun h => absurd h he) (fun h => absurd h he)

theorem done_effect {i : Instr} {s t : State} {data : List Word} (hb : writesBytes i s = false)
    (hc : callsTransmitter i = true → i = .cbRelease ∧ s.life = .released)
    (h : done s data = .next t) : Effect i s t := by
  unfold done at h
  cases h
  exact .response data .ok (fun h => absurd rfl h) (fun _ => hb) (fun _ => hc)

/-- A write of the arrays and the end of the command: written where the command writes bytes, otherwise only
the response. -/
theorem written_effect {i : Instr} {s u : State} {p : Prop} (data : List Word)
    (hu : (p ∧ u = s) ∨ (¬ p ∧ ∃ q b, u = s.written q b)) (hp : p → writesBytes i s = false)
    (hn : ¬ p → writesBytes i s = true) (hc : callsTransmitter i = false) (hl : s.life.live = true) :
    Effect i s (u.respond data .ok) := by
  obtain ⟨h, rfl⟩ | ⟨h, q, b, rfl⟩ := hu
  · exact .response data .ok (fun h => absurd rfl h) (fun _ => hp h)
      (fun _ h => absurd h (by rw [hc]; decide))
  · exact .arrays q b data (hn h) hc hl

/-- Every next state of a command has one of the forms of `Effect`. -/
theorem exec_effect {i : Instr} {s t : State} (h : exec i s = .next t) : Effect i s t := by
  cases i with
  | peEncode c tp => exact done_effect rfl (fun hc => by cases hc) h
  | cbNew n tp =>
    simp only [exec, execCbNew] at h
    split at h
    · next hl =>
      rw [construct_eq] at h
      simp only [done] at h
      cases h
      exact .buffer n tp rfl hl
    all_goals exact raise_effect h
  | cbSetColor k c =>
    simp only [exec, execCbSetColor] at h
    split at h
    · exact raise_effect h
    · next hl =>
      split at h
      · exact raise_effect h
      · obtain ⟨u, hu, rfl⟩ := commit_next h
        exact written_effect [] (writeSlices_frame hu) (by simp) (fun _ => rfl) rfl (by simpa using hl)
  | cbSetAll n cs bad =>
    simp only [exec, execCbSetAll] at h
    split at h
    · exact raise_effect h
    · split at h
      · exact raise_effect h
      · next hl =>
        split at h
        · exact raise_effect h
        · obtain ⟨u, hu, rfl⟩ := commit_next h
          exact written_effect [] (writeSlices_frame hu) (by simp [writesBytes]) (by simp [writesBytes]) rfl
            (by simpa using hl)
  | cbShiftR a l k =>
    simp only [exec, execCbShiftR] at h
    split at h
    · exact raise_effect h
    · next hl =>
      split at h
      · next he => exact raise_effect h (shiftError_ne_ok he)
      · obtain ⟨u, hu, rfl⟩ := commit_next h
        exact written_effect [] (rangeRotate_frame hu) (by simp [writesBytes]) (by simp [writesBytes]) rfl
          (by simpa using hl)
  | cbShiftL a l k =>
    simp only [exec, execCbShiftL] at h
    split at h
    · exact raise_effect h
    · next hl =>
      split at h
      · next he => exact raise_effect h (shiftError_ne_ok he)
      · obtain ⟨u, hu, rfl⟩ := commit_next h
        exact written_effect [] (rangeRotate_frame hu) (by simp [writesBytes]) (by simp [writesBytes]) rfl
          (by simpa using hl)
  | cbSend wait =>
    simp only [exec, execCbSend] at h
    split at h
    · exact raise_effect h
    · next hl => exact .send s t wait (.inl ⟨rfl, rfl⟩) rfl (by simp) (by simpa using hl) h
  | cbTurnOff wait =>
    simp only [exec, execCbTurnOff] at h
    split at h
    · exact raise_effect h
    · next hl =>
      split at h
      · cases h
      · next u hu =>
        refine .send u t wait ?_ rfl (by simp) (by simpa using hl) h
        simpa [writesBytes] using writeSlices_frame hu
  | cbRelease =>
    simp only [exec, execCbRelease] at h
    split at h
    · exact raise_effect h
    · next hl => exact done_effect rfl (fun _ => ⟨rfl, hl⟩) h
    all_goals
      next hl =>
        have e : Effect .cbRelease s _ := .release rfl (by rw [hl]; rfl)
        split at h
        all_goals
          next hc =>
            rw [hc] at e
            cases h
            exact e
  | gmIndex x y w ht m =>
    simp only [exec, execGmIndex] at h
    split at h
    · exact raise_effect h
    · split at h
      · exact raise_effect h
      · exact done_effect rfl (fun hc => by cases hc) h
  | gmShift m rc w k =>
    simp only [exec, execGmShift] at h
    split at h
    · exact raise_effect h
    · exact done_effect rfl (fun hc => by cases hc) h
  | dispNew w ht m tp =>
    simp only [exec, execDispNew] at h
    split at h
    · next hl =>
      rw [construct_eq] at h
      simp only [done] at h
      cases h
      exact .display w ht m tp rfl hl
    all_goals exact raise_effect h
  | dispSetPixel x y c =>
    simp only [exec, execDispSetPixel] at h
    split at h
    · exact raise_effect h
    · next hl =>
      split at h
      · exact raise_effect h
      · obtain ⟨u, hu, rfl⟩ := commit_next h
        unfold State.writeGrid at hu
        split at hu
        · cases hu
          exact .cell x y c _ rfl (by simpa using hl)
        · cases hu
  | dispRender =>
    simp only [exec, execDispRender] at h
    split at h
    · exact raise_effect h
    · next hl =>
      split at h
      · exact raise_effect h
      · split at h
        · cases h
        · next q hp =>
          split at h
          · cases h
          · next u hu =>
            simp only [done] at h
            cases h
            have hp := permuteGrid_eq_nil hp
            exact written_effect _ (writeSlices_frame hu) (by simp [writesBytes, hp]; omega)
              (by simp [writesBytes, hp]) rfl (by rw [Classical.not_not.1 hl]; rfl)
  | dispShiftR k wait =>
    simp only [exec, execDispShiftR] at h
    split at h
    · exact raise_effect h
    · next hl =>
      have hl' : s.life.live = true := by rw [Classical.not_not.1 hl]; rfl
      split at h
      · exact raise_effect h
      · split at h
        · exact raise_effect h
        · split at h
          · cases h
          · next u hu =>
            refine .send u t wait ?_ rfl (by simp) hl' h
            have hf := rotateRows_frame hu
            rw [toStripShift_lengths_zero] at hf
            obtain ⟨h0, hu⟩ | ⟨h0, hu⟩ := hf
            · exact .inl ⟨by simp only [writesBytes, decide_eq_false_iff_not]; omega, hu⟩
            · exact .inr ⟨by simp only [writesBytes, decide_eq_true_eq]; omega, hu⟩

/-- The end of a command after its send: the core's state is that before the send, a status word is added
exactly where the call has returned. -/
theorem sendAndFinish_frame {s t : State} {wait : Bool} (e : sendAndFinish s wait = .next t) :
    ∃ b pl q d, t =
      { s with
        txPlan := pl, txq := q, strip := d, txSerial := s.txSerial + 1
        txCalls := s.txCalls ++ [.send wait b]
        txCall := if s.callReturns then none else some (.send wait b)
        rsp := if s.callReturns then s.rsp ++ [statusWord .ok] else s.rsp } := by
  unfold sendAndFinish at e
  split at e
  · cases e
  · next u hu =>
    obtain ⟨b, pl, q, d, rfl⟩ := txSend_frame hu
    unfold afterCall at e
    cases hc : s.callReturns
    · simp only [hc, Bool.false_eq_true, if_false] at e
      cases e
      exact ⟨b, pl, q, d, by simp⟩
    · simp only [hc, if_true, done] at e
      cases e
      exact ⟨b, pl, q, d, by simp [State.respond]⟩

/-! ### The step -/

/-- The state a step moves from: the move it makes is no longer on the schedule. -/
def State.begun (s : State) : State := s.setSchedule s.schedule.tail

/-- A step makes the move at the head of the schedule. -/
theorem step_of_schedule {s : State} {m : Move} {ms : List Move} (h : s.schedule = m :: ms) :
    step s = runMove m (s.setSchedule ms) := by
  unfold step stepMove
  rw [h]

/-- What a step can do. -/
inductive StepEffect (s : State) : State → Prop where
  /-- a wait -/
  | wait : StepEffect s s.begun
  /-- the host takes a response word -/
  | take (w : Word) (ws : List Word) (h : s.rsp = w :: ws) (hr : s.rspReady = true) :
      StepEffect s (s.begun.take w ws)
  /-- a transmission completes -/
  | complete (k : Nat) (h : s.schedule.head? = some (.complete k)) : StepEffect s (s.begun.complete k)
  /-- the reset input -/
  | reset (h : s.schedule.head? = some .reset) : StepEffect s s.begun.applyReset
  /-- a word is offered -/
  | offer (w : Word) (h : s.schedule.head? = some (.offer w)) :
      StepEffect s (s.begun.setCmd (s.cmd ++ [w]))
  /-- the host's ready line -/
  | ready (b : Bool) (h : s.schedule.head? = some (.setReady b)) : StepEffect s (s.begun.setReady b)
  /-- the decoder takes a word that completes no command -/
  | decoder (w : Word) (ws : List Word) (d : Dec) (hc : s.cmd = w :: ws) (hr : s.rsp = [])
      (ht : s.txCall = none) (hd : s.dec.ok = true → d.ok = true) :
      StepEffect s ((s.begun.setCmd ws).setDec d)
  /-- a word that is no command -/
  | illegal (w : Word) (ws : List Word) (hc : s.cmd = w :: ws) (hr : s.rsp = []) (ht : s.txCall = none)
      (hd : s.dec = .idle) : StepEffect s ((s.begun.setCmd ws).respond [] .illegalCommand)
  /-- a command runs, the word that completes it taken; a `CB_SETALL` carries the colours the decoder has
  counted -/
  | command (i : Instr) (w : Word) (ws : List Word) (t : State) (hc : s.cmd = w :: ws) (hr : s.rsp = [])
      (ht : s.txCall = none) (hw : s.dec.ok = true → i.wellFormed = true)
      (e : exec i ((s.begun.setCmd ws).setDec .idle) = .next t) : StepEffect s t

/-- A decoded command is well formed. -/
theorem decode_wellFormed {w : Word} {payload : List Word} {i : Instr} (h : decode w payload = .ok i) :
    i.wellFormed = true := by
  obtain ⟨op, ho, hl, rfl⟩ := (decode_ok_iff _ _ _).1 h
  cases op <;> try rfl
  have hk := foldl_acceptPayload_length payload ([], false)
  simp only [payloadCount, ho] at hl
  simp only [operands, Instr.wellFormed]
  simp only [Bool.false_eq_true, if_false, List.length_nil, Nat.zero_add] at hk
  split
  · next hb => have := hk.2 hb; simp only [decide_eq_true_eq]; omega
  · next hb => have := hk.1 (by simpa using hb); simp only [decide_eq_true_eq]; omega

theorem setDec_idle {s : State} (h : s.dec = .idle) : s.setDec .idle = s := by
  unfold State.setDec
  rw [← h]

theorem acceptWord_effect {s t : State} {w : Word} {ws : List Word} (hc : s.cmd = w :: ws)
    (hr : s.rsp = []) (ht : s.txCall = none) (h : acceptWord w (s.begun.setCmd ws) = .next t) :
    StepEffect s t := by
  unfold acceptWord at h
  split at h
  · next hd =>
    have hd' : s.dec = .idle := hd
    split at h
    · unfold runHeader at h
      split at h
      · next i hi =>
        refine .command i w ws t hc hr ht (fun _ => decode_wellFormed hi) ?_
        rw [setDec_idle hd]
        exact h
      · unfold raise at h
        cases h
        exact .illegal w ws hc hr ht hd'
    · next hp =>
      cases h
      refine .decoder w ws _ hc hr ht (fun _ => ?_)
      have hlt : payloadCount w < 2 ^ 16 := by
        unfold payloadCount
        split
        · exact (field w 40 16).isLt
        · omega
      simp only [Dec.ok, BitVec.toNat_ofNat, Nat.mod_eq_of_lt hlt, Bool.false_eq_true, if_false,
        List.length_nil, decide_true, Bool.and_true, decide_eq_true_eq]
      omega
  · next count got colors bad hd =>
    have hd' : s.dec = .payload count got colors bad := hd
    have hlen := foldl_acceptPayload_length [w] (colors, bad)
    simp only [List.foldl_cons, List.foldl_nil, List.length_cons, List.length_nil, Nat.zero_add] at hlen
    simp only at h
    split at h
    · next hg =>
      refine .command _ w ws t hc hr ht (fun hok => ?_) h
      rw [hd'] at hok
      simp only [Dec.ok, Bool.and_eq_true, decide_eq_true_eq] at hok
      simp only [Instr.wellFormed]
      split
      · next hb =>
        have := hlen.2 hb
        simp only [decide_eq_true_eq]
        cases bad <;> simp at this hok <;> omega
      · next hb =>
        have := hlen.1 (by simpa using hb)
        rw [this.1] at hok
        simp only [Bool.false_eq_true, if_false, decide_eq_true_eq] at hok ⊢
        omega
    · next hg =>
      cases h
      refine .decoder w ws _ hc hr ht (fun hok => ?_)
      rw [hd'] at hok
      simp only [Dec.ok, Bool.and_eq_true, decide_eq_true_eq] at hok ⊢
      refine ⟨by omega, ?_⟩
      split
      · next hb =>
        have := hlen.2 hb
        simp only [decide_eq_true_eq]
        cases bad <;> simp at this hok <;> omega
      · next hb =>
        have := hlen.1 (by simpa using hb)
        rw [this.1] at hok
        simp only [Bool.false_eq_true, if_false, decide_eq_true_eq] at hok ⊢
        omega

theorem turn_effect {s t : State} (h : turn s.begun = .next t) : StepEffect s t := by
  unfold turn at h
  split at h
  · next w ws hr =>
    split at h
    · next hb => cases h; exact .take w ws hr hb
    · cases h; exact .wait
  · next hr =>
    split at h
    · cases h; exact .wait
    · next ht =>
      split at h
      · cases h; exact .wait
      · next w ws hc => exact acceptWord_effect hc hr ht h

/-- Every step has one of the forms of `StepEffect`. -/
theorem step_effect {s t : State} (h : step s = .next t) : StepEffect s t := by
  unfold step stepMove at h
  split at h
  · next hs =>
    have e : s.begun = s := by
      cases s
      simp only at hs
      simp [State.begun, State.setSchedule, hs]
    rw [← e] at h
    exact turn_effect h
  · next m ms hs =>
    have e : s.setSchedule ms = s.begun := by rw [State.begun, hs]; rfl
    rw [e] at h
    cases m with
    | turn => exact turn_effect h
    | complete k => cases h; exact .complete k (by rw [hs]; rfl)
    | reset => cases h; exact .reset (by rw [hs]; rfl)
    | offer w => cases h; exact .offer w (by rw [hs]; rfl)
    | setReady b => cases h; exact .ready b (by rw [hs]; rfl)

end Sys2Proof.Machine
end

