-- ==== Sys2Proof/Laws/PerInstr.lean ====
section
/-! SUPPORT. The per-instruction family `LegalHeader`: the encoder writes a legal header word of the
instruction's own opcode (30_encoding.md R84, R85). -/

namespace Sys2Proof.Laws.LegalHeader

/-- The header word of `i` is legal and its opcode is that of `i`. -/
def Statement (i : Instr) : Prop := headerOpcode (encodeHeader i) = .ok i.opcode

/-- A word with the opcode's byte in `[63:56]` and zeros in the format's reserved field is legal. -/
theorem statement_of_fields {i : Instr} (h1 : opcodeOf (encodeHeader i) = i.opcode.byte)
    (h2 : field (encodeHeader i) i.opcode.rsv.1 i.opcode.rsv.2 = 0) : Statement i := by
  unfold Statement headerOpcode
  rw [h1, opcode_ofByte_byte]
  simp only
  rw [if_pos h2]

theorem peEncode (c : Color) (t : TimingProfile) : Statement (.peEncode c t) := by
  apply statement_of_fields <;>
    simp [encodeHeader, profileWord, opcodeOf, Instr.opcode, Opcode.rsv, field_place_same, field_place_other]

theorem cbNew (n : BitVec 16) (t : TimingProfile) : Statement (.cbNew n t) := by
  apply statement_of_fields <;>
    simp [encodeHeader, profileWord, opcodeOf, Instr.opcode, Opcode.rsv, field_place_same, field_place_other]

theorem cbSetColor (i : BitVec 16) (c : Color) : Statement (.cbSetColor i c) := by
  apply statement_of_fields <;>
    simp [encodeHeader, colorWord, opcodeOf, Instr.opcode, Opcode.rsv, field_place_same, field_place_other]

theorem cbSetAll (n : BitVec 16) (cs : List Color) (bad : Bool) : Statement (.cbSetAll n cs bad) := by
  apply statement_of_fields <;>
    simp [encodeHeader, opcodeOf, Instr.opcode, Opcode.rsv, field_place_same, field_place_other]

theorem cbShiftR (a l k : BitVec 16) : Statement (.cbShiftR a l k) := by
  apply statement_of_fields <;>
    simp [encodeHeader, opcodeOf, Instr.opcode, Opcode.rsv, field_place_same, field_place_other]

theorem cbShiftL (a l k : BitVec 16) : Statement (.cbShiftL a l k) := by
  apply statement_of_fields <;>
    simp [encodeHeader, opcodeOf, Instr.opcode, Opcode.rsv, field_place_same, field_place_other]

theorem cbSend (b : Bool) : Statement (.cbSend b) := by
  apply statement_of_fields <;>
    simp [encodeHeader, opcodeOf, Instr.opcode, Opcode.rsv, field_place_same, field_place_other]

theorem cbTurnOff (b : Bool) : Statement (.cbTurnOff b) := by
  apply statement_of_fields <;>
    simp [encodeHeader, opcodeOf, Instr.opcode, Opcode.rsv, field_place_same, field_place_other]

theorem cbRelease : Statement .cbRelease := by
  apply statement_of_fields <;>
    simp [encodeHeader, opcodeOf, Instr.opcode, Opcode.rsv, field_place_same, field_place_other]

theorem gmIndex (x y width height mode : BitVec 8) : Statement (.gmIndex x y width height mode) := by
  apply statement_of_fields <;>
    simp [encodeHeader, opcodeOf, Instr.opcode, Opcode.rsv, field_place_same, field_place_other]

theorem gmShift (mode rowCount width : BitVec 8) (steps : BitVec 16) :
    Statement (.gmShift mode rowCount width steps) := by
  apply statement_of_fields <;>
    simp [encodeHeader, opcodeOf, Instr.opcode, Opcode.rsv, field_place_same, field_place_other]

theorem dispNew (width height mode : BitVec 8) (t : TimingProfile) :
    Statement (.dispNew width height mode t) := by
  apply statement_of_fields <;>
    simp [encodeHeader, profileWord, opcodeOf, Instr.opcode, Opcode.rsv, field_place_same, field_place_other]

theorem dispSetPixel (x y : BitVec 8) (c : Color) : Statement (.dispSetPixel x y c) := by
  apply statement_of_fields <;>
    simp [encodeHeader, colorWord, opcodeOf, Instr.opcode, Opcode.rsv, field_place_same, field_place_other]

theorem dispRender : Statement .dispRender := by
  apply statement_of_fields <;>
    simp [encodeHeader, opcodeOf, Instr.opcode, Opcode.rsv, field_place_same, field_place_other]

theorem dispShiftR (steps : BitVec 16) (b : Bool) : Statement (.dispShiftR steps b) := by
  apply statement_of_fields <;>
    simp [encodeHeader, opcodeOf, Instr.opcode, Opcode.rsv, field_place_same, field_place_other]

end Sys2Proof.Laws.LegalHeader
end

