-- ==== Sys2Proof/Tests/Slice0.lean ====
section
/-! SUPPORT. The model's own tests. Expected values are those of 95_test_vectors.md (the vector is named at
each test), under its test configuration. The last part has one witness for each statement with
hypotheses. -/

namespace Sys2Proof.Tests

open Sys2Proof Sys2Proof.Machine Sys2Proof.Claims

set_option Elab.async false

/-! ### The test configuration (95_test_vectors.md section 0) and small states -/

def cfg : Params := ⟨[0xF0, 0xF1, 0xF2, 0xF3], 0x80, 0x00, false, ⟨8, 4, 3, 9⟩⟩

def t1 : TimingProfile := ⟨8, 4, 3, 9⟩

/-- After reset, under the test configuration. -/
def base : State := { State.reset with params := cfg }

/-- The buffer of a session with pixels `p`. -/
def bufOf (p : List Color) : Memory := Memory.cellsAt 0 (cfg.header ++ p.flatMap fun c => encodeColor cfg c t1)

/-- A CommandBuffer session. -/
def live (p : List Color) : State :=
  { base with life := .cbLive, n := BitVec.ofNat 16 p.length, tp := t1, pix := p, buf := bufOf p }

/-- A Display session of 3 x 2 cells with wiring mode byte `m`. -/
def disp (m : Byte) (p g : List Color) : State :=
  { base with
    life := .dispLive, n := 6, tp := t1, w := 3, h := 2, mode := m, pix := p, grid := g, buf := bufOf p }

/-- After `CB_RELEASE`. -/
def released : State := { live [Color.black] with life := .released }

def goesOn (r : Host.Outcome State Fault Refusal) : Bool :=
  match r with
  | .next _ => true
  | _ => false

def stateOf (r : Host.Outcome State Fault Refusal) : State :=
  match r with
  | .next t => t
  | _ => State.reset

theorem eq_stateOf {r : Host.Outcome State Fault Refusal} (h : goesOn r = true) : r = .next (stateOf r) := by
  cases r with
  | next t => rfl
  | fault f => cases h
  | refused f => cases h

/-- The state after one command. -/
def after (i : Instr) (s : State) : State := stateOf (exec i s)

/-- The state after one step in which `w` is the next word offered. -/
def afterWord (w : Word) (s : State) : State := stateOf (step { s with cmd := [w] })

def red (k : Byte) : Color := ⟨k, 0, 0⟩

/-- `[a, b, c, d, e]` of V13. -/
def five : List Color := [red 1, red 2, red 3, red 4, red 5]

/-- `[p, q, r, s, t, u]` of V31. -/
def six : List Color := [red 1, red 2, red 3, red 4, red 5, red 6]

def blacks : List Color := List.replicate 6 Color.black

/-- The bytes of a slice given as 24 bits, `1` for the letter O and `0` for Z (95_test_vectors.md
section 0). -/
def letters (bits : List Nat) : List Byte :=
  bits.flatMap fun b => if b = 1 then [0x08, 0x80, 0x04, 0x00] else [0x03, 0x80, 0x09, 0x00]

/-- V3. -/
def v3 : List Byte := letters [0,0,1,1,0,1,0,0, 0,0,0,1,0,0,1,0, 0,1,0,1,0,1,1,0]

def ok : Word := 0x8000000000000000

/-! ### WellFormed refuses the ill-formed terms -/

theorem test_wf_too_few : (Instr.cbSetAll 2 [red 1] false).wellFormed = false := by decide
theorem test_wf_too_many : (Instr.cbSetAll 1 [red 1, red 2] false).wellFormed = false := by decide
theorem test_wf_malformed_full : (Instr.cbSetAll 1 [red 1] true).wellFormed = false := by decide
theorem test_wf_clean : (Instr.cbSetAll 2 [red 1, red 2] false).wellFormed = true := by decide

/-! ### Decoding: words of 30_encoding.md and 95_test_vectors.md -/

theorem test_decode_peEncode :
    decode 0x0112345608040309 [] = .ok (.peEncode ⟨0x12, 0x34, 0x56⟩ ⟨8, 4, 3, 9⟩) := by decide
theorem test_decode_cbNew : decode 0x1000030008040309 [] = .ok (.cbNew 3 ⟨8, 4, 3, 9⟩) := by decide
theorem test_decode_cbSetColor :
    decode 0x1100010000123456 [] = .ok (.cbSetColor 1 ⟨0x12, 0x34, 0x56⟩) := by decide
theorem test_decode_cbSetAll :
    decode 0x1200020000000000 [0x0000000000FF0000, 0x00000000000000FF] =
      .ok (.cbSetAll 2 [⟨0xFF, 0, 0⟩, ⟨0, 0, 0xFF⟩] false) := by decide
theorem test_decode_cbSetAll_malformed :
    decode 0x1200020000000000 [0x1700000000000000, 0x0000000000020202] =
      .ok (.cbSetAll 2 [⟨2, 2, 2⟩] true) := by decide
theorem test_decode_cbShiftR : decode 0x1300010003000100 [] = .ok (.cbShiftR 1 3 1) := by decide
theorem test_decode_cbShiftL : decode 0x1400030002000100 [] = .ok (.cbShiftL 3 2 1) := by decide
theorem test_decode_cbSend : decode 0x1500000000000001 [] = .ok (.cbSend true) := by decide
theorem test_decode_cbTurnOff : decode 0x1600000000000000 [] = .ok (.cbTurnOff false) := by decide
theorem test_decode_cbRelease : decode 0x1700000000000000 [] = .ok .cbRelease := by decide
theorem test_decode_gmIndex : decode 0x2002010A0A030000 [] = .ok (.gmIndex 2 1 10 10 3) := by decide
theorem test_decode_gmShift : decode 0x2103030400010000 [] = .ok (.gmShift 3 3 4 1) := by decide
theorem test_decode_dispNew : decode 0x3003020308040309 [] = .ok (.dispNew 3 2 3 ⟨8, 4, 3, 9⟩) := by decide
theorem test_decode_dispSetPixel :
    decode 0x3102010000040506 [] = .ok (.dispSetPixel 2 1 ⟨4, 5, 6⟩) := by decide
theorem test_decode_dispRender : decode 0x3200000000000000 [] = .ok .dispRender := by decide
theorem test_decode_dispShiftR : decode 0x3300020000000001 [] = .ok (.dispShiftR 2 true) := by decide

/-- V40: illegal words. -/
theorem test_illegal_words :
    ([0x0000000000000000, 0xFFFFFFFFFFFFFFFF, 0x0200000000000000, 0x1800000000000000, 0x2200000000000000,
      0x3400000000000000, 0x1700000000000001, 0x3200000100000000, 0x1500000000000003, 0x1600800000000000,
      0x1000030108040309, 0x1100010001123456, 0x1200020000000001, 0x1300010003000180, 0x2002010A0A038000,
      0x2103030400010001, 0x3100018000010203, 0x3300010000000002] : List Word).all
      (fun w => match decode w [] with | .ok _ => false | .error _ => true) = true := by decide +kernel

/-- The table's row of `CB_RELEASE`, and a `CB_SETALL` of one payload word as a 128-bit string. -/
theorem test_decodeTableWord :
    decodeTableWord 64 0x1700000000000000 = some .cbRelease ∧
    decodeTableWord 128 0x0000000000FF00001200010000000000 = some (.cbSetAll 1 [⟨0xFF, 0, 0⟩] false) ∧
    decodeTableWord 64 0x1200010000000000 = some (.cbSetAll 1 [Color.black] false) ∧
    decodeTableWord 64 0 = none := by decide +kernel

/-- 30_encoding.md R104's notation, on the commands of V13 row 1 and V31 row 2. -/
theorem test_text :
    (Instr.cbShiftR 1 3 1).text = "CB_SHIFTR 1, 3, 1" ∧
    (Instr.dispNew 3 2 3 ⟨8, 4, 3, 9⟩).text = "DISP_NEW 3, 2, OddReversed, tp(8,4,3,9)" := by decide +kernel

/-! ### Every command: what it does, and one error -/

/-- V4. -/
theorem test_peEncode :
    (after (.peEncode ⟨0x12, 0x34, 0x56⟩ t1) base).rsp =
      [0x0300000003800900, 0x0300000003800900, 0x0300000008800400, 0x0300000008800400,
       0x0300000003800900, 0x0300000008800400, 0x0300000003800900, 0x0300000003800900,
       0x0300000003800900, 0x0300000003800900, 0x0300000003800900, 0x0300000008800400,
       0x0300000003800900, 0x0300000003800900, 0x0300000008800400, 0x0300000003800900,
       0x0300000003800900, 0x0300000008800400, 0x0300000003800900, 0x0300000008800400,
       0x0300000003800900, 0x0300000008800400, 0x0300000008800400, 0x0300000003800900, ok] := by
  decide +kernel

/-- V10 row 2. -/
theorem test_cbNew :
    let t := after (.cbNew 1 t1) base
    t.life = .cbLive ∧ t.n = 1 ∧ t.tp = t1 ∧ t.pix = [Color.black] ∧
      bufBytes t = [0xF0, 0xF1, 0xF2, 0xF3] ++ letters (List.replicate 24 0) := by decide +kernel

/-- V10 row 5. -/
theorem test_cbNew_twice : (after (.cbNew 2 t1) (live five)).rsp = [0x8000000000000005] := by decide +kernel

/-- V11 row 2. -/
theorem test_cbSetColor :
    let t := after (.cbSetColor 1 ⟨18, 52, 86⟩) (live (List.replicate 3 Color.black))
    t.pix = [Color.black, ⟨18, 52, 86⟩, Color.black] ∧ t.buf.readBytes 100 96 = v3 ∧
      t.buf.readBytes 4 96 = letters (List.replicate 24 0) := by decide +kernel

/-- V11 row 4. -/
theorem test_cbSetColor_bound :
    (after (.cbSetColor 3 (red 1)) (live (List.replicate 3 Color.black))).rsp = [0x8000000000000001] := by
  decide +kernel

/-- V12 row 1, its last payload word. -/
theorem test_cbSetAll :
    (afterWord 0x00000000000000FF
      { live [⟨9, 9, 9⟩, Color.black] with dec := .payload 2 1 [red 255] false }).pix =
      [red 255, ⟨0, 0, 255⟩] := by decide +kernel

/-- V12 row 6, its last payload word: the malformed payload is reported, the pixels stay. -/
theorem test_cbSetAll_malformed :
    let t := afterWord 0x0000000000020202 { live [⟨9, 9, 9⟩, Color.black] with dec := .payload 2 1 [] true }
    t.rsp = [0x8000000000000006] ∧ t.pix = [⟨9, 9, 9⟩, Color.black] ∧ t.dec = .idle := by decide +kernel

/-- V13 row 1. -/
theorem test_cbShiftR :
    let t := after (.cbShiftR 1 3 1) (live five)
    t.pix = [red 1, red 4, red 2, red 3, red 5] ∧ t.buf = bufOf [red 1, red 4, red 2, red 3, red 5] := by
  decide +kernel

/-- V13 rows 12 and 14. -/
theorem test_cbShiftR_checks :
    (after (.cbShiftR 3 3 4) (live five)).rsp = [0x8000000000000001] ∧
    (after (.cbShiftR 5 0 1) (live five)).rsp = [0x8000000000000003] := by decide +kernel

/-- V13 row 3. -/
theorem test_cbShiftL : (after (.cbShiftL 1 3 1) (live five)).pix = [red 1, red 3, red 4, red 2, red 5] := by
  decide +kernel

/-- V14 row 5: a blocking send, its bytes. -/
theorem test_cbSend :
    let t := after (.cbSend true) (live [⟨0, 0, 1⟩])
    t.rsp = [ok] ∧ t.txq = [] ∧
      t.strip = [⟨0, [0xF0, 0xF1, 0xF2, 0xF3] ++ letters (List.replicate 23 0 ++ [1])⟩] := by decide +kernel

/-- V14 row 6: a non-blocking send stays in flight. -/
theorem test_cbSend_nowait :
    let t := after (.cbSend false) (live [⟨0, 0, 1⟩])
    t.txq.map (fun x => x.serial) = [0] ∧ t.strip = [] ∧ t.rsp = [ok] := by decide +kernel

/-- V14 row 8. -/
theorem test_cbTurnOff :
    let t := after (.cbTurnOff true) (live [⟨0, 0, 1⟩])
    t.pix = [Color.black] ∧
      t.txCalls = [.send true ([0xF0, 0xF1, 0xF2, 0xF3] ++ letters (List.replicate 24 0))] := by
  decide +kernel

/-- V14 rows 9 and 10. -/
theorem test_cbRelease :
    (after .cbRelease (live [red 1])).life = .released ∧
    (after .cbRelease (live [red 1])).txCalls = [.release] ∧
    (after .cbRelease released).txCalls = [] ∧ (after .cbRelease released).rsp = [ok] := by decide +kernel

/-- V21 rows 1, 3, 13. -/
theorem test_gmIndex :
    (after (.gmIndex 2 1 10 10 3) base).rsp = [0x0100000000000011, ok] ∧
    (after (.gmIndex 9 9 10 10 3) base).rsp = [0x010000000000005A, ok] ∧
    (after (.gmIndex 10 10 10 10 255) base).rsp = [0x8000000000000004] := by decide +kernel

/-- V22 row 3. -/
theorem test_gmShift :
    (after (.gmShift 2 3 4 1) base).rsp =
      [0x0400000004000101, 0x0400040004000100, 0x0400080004000101, ok] := by decide +kernel

/-- V30 row 2, its registers. -/
theorem test_dispNew :
    let t := after (.dispNew 3 2 3 t1) base
    t.life = .dispLive ∧ t.w = 3 ∧ t.h = 2 ∧ t.mode = 3 ∧ t.n = 6 ∧ t.buf.length = 580 ∧
      t.grid = blacks := by decide +kernel

/-- V30 rows 3 and 6. -/
theorem test_dispSetPixel :
    let t := after (.dispSetPixel 0 1 ⟨1, 2, 3⟩) (disp 3 blacks blacks)
    t.grid[3]? = some ⟨1, 2, 3⟩ ∧ t.pix = blacks ∧
      (after (.dispSetPixel 0 2 (red 1)) (disp 3 blacks blacks)).rsp = [0x8000000000000001] := by
  decide +kernel

/-- V31, OddReversed. -/
theorem test_dispRender :
    let t := after .dispRender (disp 3 blacks six)
    t.rsp = [0x0200000000010000, 0x0200000000020000, 0x0200000000030000, 0x0200000000060000,
      0x0200000000050000, 0x0200000000040000, ok] ∧
    t.buf.readBytes 292 96 = letters [0,0,0,0,0,0,0,0, 0,0,0,0,0,1,1,0, 0,0,0,0,0,0,0,0] := by
  decide +kernel

/-- V31, the unrecognized mode. -/
theorem test_dispRender_mode : (after .dispRender (disp 4 blacks six)).rsp = [0x8000000000000004] := by
  decide +kernel

/-- V32, OddReversed, one step. -/
theorem test_dispShiftR :
    (after (.dispShiftR 1 true) (disp 3 [red 1, red 2, red 3, red 6, red 5, red 4] six)).pix =
      [red 3, red 1, red 2, red 5, red 4, red 6] := by decide +kernel

/-- V32, the last row: the mode is checked before the steps. -/
theorem test_dispShiftR_checks :
    (after (.dispShiftR 9 true) (disp 7 blacks six)).rsp = [0x8000000000000004] ∧
    (after (.dispShiftR 4 true) (disp 3 blacks six)).rsp = [0x8000000000000003] := by decide +kernel

/-- 70_reset_and_hazards.md R233: a send whose call never returns gives no status word. -/
theorem test_hang :
    let t := after (.cbSend true) { live [red 1] with txPlan := [.never] }
    t.rsp = [] ∧ t.txCall.isSome = true := by decide +kernel

/-- A mutation in flight is marked, and the core's own state is as at any other time (R230). -/
theorem test_race :
    let t := after (.cbSetColor 0 (red 7)) (after (.cbSend false) (live [red 1]))
    t.pix = [red 7] ∧ t.txq.map (fun x => x.mutated) = [true] := by decide +kernel

/-! ### Witnesses: for each statement with hypotheses, a state and operands that meet them all -/

theorem live_inv (p : List Color) (hp : p.length < 2 ^ 16) : Machine.Inv (live p) := by
  refine ⟨Memory.wf_cellsAt _ _, fun _ => (bufferInv_iff _).2 ⟨rfl, ?_⟩, fun h => (by cases h), rfl,
    ⟨List.Pairwise.nil, fun t ht => (by cases ht)⟩⟩
  show p.length = (BitVec.ofNat 16 p.length).toNat
  rw [BitVec.toNat_ofNat, Nat.mod_eq_of_lt hp]

theorem disp_inv (m : Byte) (p g : List Color) (hp : p.length = 6) (hg : g.length = 6) :
    Machine.Inv (disp m p g) :=
  ⟨Memory.wf_cellsAt _ _, fun _ => (bufferInv_iff _).2 ⟨rfl, hp⟩, fun _ => ⟨rfl, hg⟩, rfl,
    ⟨List.Pairwise.nil, fun t ht => (by cases ht)⟩⟩

theorem base_inv : Machine.Inv base :=
  ⟨List.Pairwise.nil, fun h => (by cases h), fun h => (by cases h), rfl,
    ⟨List.Pairwise.nil, fun t ht => (by cases ht)⟩⟩

/-- Boundary terms: no payload, the longest clean list is as long as `count`, a malformed list is shorter. -/
theorem wit_DecodeOfEncodeIsIdentity :
    (Instr.cbSetAll 0 [] false).wellFormed = true ∧ (Instr.cbSetAll 1 [] true).wellFormed = true ∧
    Instr.cbRelease.wellFormed = true := by decide

theorem wit_EncodeOfDecodeIsIdentity :
    decode 0x1200020000000000 [0x0000000000FF0000, 0x00000000000000FF] =
      .ok (.cbSetAll 2 [⟨0xFF, 0, 0⟩, ⟨0, 0, 0xFF⟩] false) ∧
    ∀ p ∈ ([0x0000000000FF0000, 0x00000000000000FF] : List Word), field p 24 40 = 0 :=
  ⟨by decide, fun p hp => by
    simp only [List.mem_cons, List.not_mem_nil, or_false] at hp
    obtain rfl | rfl := hp <;> decide⟩

theorem wit_DecodedCommandIsWellFormed :
    decode 0x1200010000000000 [0x0000000001000000] = .ok (.cbSetAll 1 [] true) := by decide

theorem wit_StepRunsTheDecodedCommand :
    Ready { base with cmd := [0x1700000000000000] } ∧ base.dec = .idle ∧
    decode 0x1700000000000000 [] = .ok .cbRelease := ⟨⟨rfl, rfl, rfl⟩, rfl, by decide⟩

theorem wit_IllegalWordIsReportedWithoutEffect :
    Ready { base with cmd := [0x3400000000000000] } ∧ base.dec = .idle ∧
    opcodeOf 0x3400000000000000 ∉ legalOpcodes ∧
    opcodeOf 0x1700000000000001 = Opcode.byte .cbRelease ∧
    (0x1700000000000001 : Word) &&& tableMask .cbRelease ≠ tableMatch .cbRelease :=
  ⟨⟨rfl, rfl, rfl⟩, rfl, by decide, by decide, by decide⟩

/-- Each clause: a payload follows (`count` 1), none follows (`count` 0, another command), and in PAYLOAD a
clean and a malformed word, the last one and one before it. -/
theorem wit_PayloadWordsDriveTheDecoder :
    ((0x1200010000000000 : Word) &&& tableMask .cbSetAll = tableMatch .cbSetAll ∧
      1 ≤ (field 0x1200010000000000 40 16).toNat) ∧
    ¬ ((0x1200000000000000 : Word) &&& tableMask .cbSetAll = tableMatch .cbSetAll ∧
      1 ≤ (field 0x1200000000000000 40 16).toNat) ∧
    decode 0x1200000000000000 [] = .ok (.cbSetAll 0 [] false) ∧
    decode 0 [] = .error (.unknownOpcode 0) ∧
    Ready { base with dec := .payload 2 0 [] false, cmd := [0x0000000001000000] } ∧
    field 0x0000000001000000 24 40 ≠ 0 ∧ field 0x0000000000FFFFFF 24 40 = 0 ∧
    0 + 1 ≠ (2 : BitVec 16).toNat ∧ 1 + 1 = (2 : BitVec 16).toNat :=
  ⟨by decide, by decide, by decide, by decide, ⟨rfl, rfl, rfl⟩, by decide, by decide, by decide, by decide⟩

theorem wit_CommandStreamRunsAsOneCommand :
    Ready { base with cmd := [0x1200010000000000, 0x0000000000FF0000, 0] } ∧ base.dec = .idle ∧
    decode 0x1200010000000000 [0x0000000000FF0000] = .ok (.cbSetAll 1 [⟨0xFF, 0, 0⟩] false) ∧
    decode 0x1700000000000000 [] = .ok .cbRelease := ⟨⟨rfl, rfl, rfl⟩, rfl, by decide, by decide⟩

theorem wit_FetchWordRunsTheCommand :
    decodeTableWord 64 0x1200010000000000 = some (.cbSetAll 1 [Color.black] false) ∧
    decodeTableWord 64 0x3200000000000000 = some .dispRender := by decide +kernel

theorem wit_PortsWaitAndHandOver :
    (Ready base ∧ base.cmd = []) ∧
    ({ base with rsp := [ok] }.schedule = [] ∧ { base with rsp := [ok] }.rspReady = true) ∧
    { base with rsp := [ok], rspReady := false }.rsp ≠ [] ∧
    { base with schedule := [.turn, .complete 0] }.schedule = [.turn, .complete 0] ∧
    { base with schedule := [.complete 0] }.schedule = [.complete 0] ∧
    { base with schedule := [.offer ok] }.schedule = [.offer ok] ∧
    { base with schedule := [.setReady false] }.schedule = [.setReady false] :=
  ⟨⟨⟨rfl, rfl, rfl⟩, rfl⟩, ⟨rfl, rfl⟩, by simp, rfl, rfl, rfl, rfl⟩

/-- A session with one transmission in flight and the reset next. -/
theorem wit_ResetInputClearsTheCore :
    let s := { live [red 1] with txSerial := 1, txq := [⟨0, [1], false, false, false⟩], schedule := [.reset] }
    s.schedule = .reset :: [] ∧ s.life = .cbLive ∧ s.txq ≠ [] := by decide +kernel

/-- The state after a send whose call never returns, with a command waiting and a completion to come. -/
theorem wit_OutstandingCallHoldsTheCore :
    let t := after (.cbSend true)
      { live [red 1] with txPlan := [.never], cmd := [0x1700000000000000], schedule := [.complete 0] }
    (t.txCall ≠ none ∧ t.rsp = [] ∧ ∀ m ∈ t.schedule, m ≠ .reset) ∧
    { t with schedule := [.reset] }.schedule = .reset :: [] := by decide +kernel

theorem wit_StepKeepsInvariant :
    Machine.Inv { live five with cmd := [0x1300010003000100] } ∧
    ∃ t, step { live five with cmd := [0x1300010003000100] } = .next t :=
  ⟨live_inv five (by decide), _, eq_stateOf (by decide +kernel)⟩

theorem wit_StepNeverStops : Machine.Inv (disp 3 blacks six) := disp_inv _ _ _ rfl rfl

theorem wit_FailedCommandChangesNothing :
    Ready { base with cmd := [0x1700000000000000] } ∧
    ∃ t, step { base with cmd := [0x1700000000000000] } = .next t ∧
      statusWord .lifecycleError ∈ t.rsp :=
  ⟨⟨rfl, rfl, rfl⟩, _, eq_stateOf (by decide +kernel), by decide +kernel⟩

/-- With data words, with an error, and with a call that does not return. -/
theorem wit_EveryCommandGivesOneResponse :
    base.txCall = none ∧
    (∃ t, exec (.gmShift 2 3 4 1) base = .next t ∧ t.rsp.length = 4) ∧
    (∃ t, exec .dispRender base = .next t ∧ t.rsp = [statusWord .lifecycleError]) ∧
    ∃ t, exec (.cbSend false) { live [red 1] with txPlan := [.never] } = .next t ∧ t.txCall ≠ none :=
  ⟨rfl, ⟨_, eq_stateOf (by decide +kernel), by decide +kernel⟩,
    ⟨_, eq_stateOf (by decide +kernel), by decide +kernel⟩,
    ⟨_, eq_stateOf (by decide +kernel), by decide +kernel⟩⟩

theorem wit_LifecycleErrorIsTheTable :
    payloadMalformed (.cbSetAll 1 [red 1] false) = false ∧
    validIn (.cbSetAll 1 [red 1] false) .empty = false ∧
    validIn (.cbSetAll 1 [red 1] false) .dispLive = true := by decide

/-- Every error of the table. -/
theorem wit_ErrorsAreTheTables :
    expectedError (.cbSetColor 5 (red 1)) (live five) = some .indexOutOfRange ∧
    expectedError (.cbSetAll 4 [] false) (live five) = some .sizeMismatch ∧
    expectedError (.cbShiftL 5 0 1) (live five) = some .invalidArgument ∧
    expectedError .dispRender (disp 4 blacks blacks) = some .configurationError ∧
    expectedError (.cbSend true) base = some .lifecycleError ∧
    expectedError (.cbSetAll 1 [] true) base = some .illegalCommand ∧
    expectedError (.cbShiftL 5 0 0) (live five) = none := by decide +kernel

theorem wit_LifecycleTransitions :
    (∃ t, exec (.cbNew 0 t1) base = .next t ∧ t.life = .cbLive) ∧
    (∃ t, exec (.dispNew 0 0 9 t1) base = .next t ∧ t.life = .dispLive) ∧
    (∃ t, exec .cbRelease (live [red 1]) = .next t ∧ t.life = .released) ∧
    ∃ t, step { released with schedule := [.reset] } = .next t ∧ t.life = .empty :=
  ⟨⟨_, eq_stateOf (by decide +kernel), by decide +kernel⟩, ⟨_, eq_stateOf (by decide +kernel), by decide +kernel⟩,
    ⟨_, eq_stateOf (by decide +kernel), by decide +kernel⟩, ⟨_, eq_stateOf (by decide +kernel), by decide +kernel⟩⟩

theorem wit_ReleasedIsFinal :
    released.life = .released ∧ { released with cmd := [0x1000010008040309] }.schedule.head? ≠ some .reset ∧
    ∃ t, step { released with cmd := [0x1000010008040309] } = .next t :=
  ⟨rfl, by decide, _, eq_stateOf (by decide +kernel)⟩

theorem wit_ReleaseIsTheLastCall :
    { released with txCalls := [.release], cmd := [0x1700000000000000] }.txCalls.getLast? = some .release ∧
    ∃ t, step { released with txCalls := [.release], cmd := [0x1700000000000000] } = .next t ∧
      t.life = .released := ⟨rfl, _, eq_stateOf (by decide +kernel), by decide +kernel⟩

theorem wit_SessionRegistersAreWrittenOnce :
    ∃ t, step { live five with cmd := [0x1300010003000100] } = .next t ∧
      (live five).life ≠ .empty ∧ t.life ≠ .empty :=
  ⟨_, eq_stateOf (by decide +kernel), by decide, by decide +kernel⟩

theorem wit_HeaderIsNeverRewritten :
    Machine.Inv (live five) ∧ (∃ t, exec (.cbTurnOff true) (live five) = .next t) ∧
    (live five).buf.read 3 = some 0xF3 :=
  ⟨live_inv _ (by decide), ⟨_, eq_stateOf (by decide +kernel)⟩, by decide +kernel⟩

theorem wit_GridAndPixelsAreSeparate :
    (∃ t, exec .dispRender (disp 3 blacks six) = .next t) ∧
    ∃ t, exec (.dispSetPixel 2 1 (red 1)) (disp 3 blacks six) = .next t :=
  ⟨⟨_, eq_stateOf (by decide +kernel)⟩, ⟨_, eq_stateOf (by decide +kernel)⟩⟩

theorem wit_SafeCommandsTouchNothing :
    writesBuf (.dispSetPixel 2 1 (red 1)) = false ∧ callsTransmitter (.dispSetPixel 2 1 (red 1)) = false ∧
    ∃ t, exec (.dispSetPixel 2 1 (red 1)) (disp 3 blacks six) = .next t :=
  ⟨rfl, rfl, _, eq_stateOf (by decide +kernel)⟩

theorem wit_PixelBlockIsDecodable :
    (t1.oneHigh, t1.oneLow) ≠ (t1.zeroHigh, t1.zeroLow) ∧
    (let t : TimingProfile := ⟨5, 6, 5, 6⟩; (t.oneHigh, t.oneLow) = (t.zeroHigh, t.zeroLow)) := by decide

theorem wit_CbNewResult : base.life = .empty ∧ (live five).life ≠ .empty := ⟨rfl, by decide⟩

/-- The last index and the first that is out of range. -/
theorem wit_CbSetColorResult :
    base.life.live = false ∧ Machine.Inv (live five) ∧ (live five).life.live = true ∧
    (4 : BitVec 16).toNat < (live five).n.toNat ∧ (live five).n.toNat ≤ (5 : BitVec 16).toNat :=
  ⟨rfl, live_inv _ (by decide), rfl, by decide, by decide⟩

theorem wit_CbSetAllResult :
    base.life.live = false ∧ Machine.Inv (live five) ∧ (live five).life.live = true ∧
    (4 : BitVec 16) ≠ (live five).n ∧ (5 : BitVec 16) = (live five).n ∧
    (Instr.cbSetAll 5 five false).wellFormed = true :=
  ⟨rfl, live_inv _ (by decide), rfl, by decide, by decide, by decide⟩

/-- The end of the range at N and one beyond; steps at the length and one beyond. -/
theorem wit_CbShiftRightResult :
    base.life.live = false ∧ Machine.Inv (live five) ∧ (live five).life.live = true ∧
    (2 : BitVec 16).toNat + (3 : BitVec 16).toNat ≤ (live five).n.toNat ∧
    (live five).n.toNat < (3 : BitVec 16).toNat + (3 : BitVec 16).toNat ∧
    (3 : BitVec 16).toNat ≤ (3 : BitVec 16).toNat ∧ (3 : BitVec 16).toNat < (4 : BitVec 16).toNat :=
  ⟨rfl, live_inv _ (by decide), rfl, by decide, by decide, by decide, by decide⟩

/-- The empty range at N. -/
theorem wit_CbShiftLeftResult :
    base.life.live = false ∧ Machine.Inv (live five) ∧ (live five).life.live = true ∧
    (5 : BitVec 16).toNat + (0 : BitVec 16).toNat ≤ (live five).n.toNat ∧
    (live five).n.toNat < (6 : BitVec 16).toNat + (0 : BitVec 16).toNat ∧
    (0 : BitVec 16).toNat ≤ (0 : BitVec 16).toNat ∧ (0 : BitVec 16).toNat < (1 : BitVec 16).toNat :=
  ⟨rfl, live_inv _ (by decide), rfl, by decide, by decide, by decide, by decide⟩

/-- Steps 1 there and back, and steps 1 then 2 (the length) against 1. -/
theorem wit_LawsOfRotation :
    Machine.Inv (live [red 1, red 2]) ∧ (live [red 1, red 2]).life.live = true ∧
    (0 : BitVec 16).toNat + (2 : BitVec 16).toNat ≤ (live [red 1, red 2]).n.toNat ∧
    (∃ t u, exec (.cbShiftR 0 2 1) (live [red 1, red 2]) = .next t ∧ exec (.cbShiftL 0 2 1) t = .next u) ∧
    (∃ t u, exec (.cbShiftL 0 2 1) (live [red 1, red 2]) = .next t ∧ exec (.cbShiftR 0 2 1) t = .next u) ∧
    (∃ t u v, exec (.cbShiftR 0 2 1) (live [red 1, red 2]) = .next t ∧ exec (.cbShiftR 0 2 2) t = .next u ∧
      exec (.cbShiftR 0 2 1) (live [red 1, red 2]) = .next v) ∧
    (∃ t u v, exec (.cbShiftL 0 2 1) (live [red 1, red 2]) = .next t ∧ exec (.cbShiftL 0 2 2) t = .next u ∧
      exec (.cbShiftL 0 2 1) (live [red 1, red 2]) = .next v) ∧
    (1 : BitVec 16).toNat = ((1 : BitVec 16).toNat + (2 : BitVec 16).toNat) % (2 : BitVec 16).toNat :=
  ⟨live_inv _ (by decide), rfl, by decide,
    ⟨_, _, eq_stateOf (by decide +kernel), eq_stateOf (by decide +kernel)⟩,
    ⟨_, _, eq_stateOf (by decide +kernel), eq_stateOf (by decide +kernel)⟩,
    ⟨_, _, _, eq_stateOf (by decide +kernel), eq_stateOf (by decide +kernel), eq_stateOf (by decide +kernel)⟩,
    ⟨_, _, _, eq_stateOf (by decide +kernel), eq_stateOf (by decide +kernel), eq_stateOf (by decide +kernel)⟩,
    by decide⟩

theorem wit_CbSendResult :
    base.life.live = false ∧ Machine.Inv (live five) ∧ (live five).life.live = true ∧
    (live five).callReturns = true ∧ (live five).txPlan = [] ∧
    Machine.Inv { live five with txPlan := [.never] } ∧
    { live five with txPlan := [.never] }.callReturns = false :=
  ⟨rfl, live_inv _ (by decide), rfl, rfl, rfl, live_inv five (by decide), rfl⟩

theorem wit_BlockingSendDeliversTheBuffer :
    Machine.Inv (live [red 1]) ∧ (live [red 1]).life.live = true ∧ (live [red 1]).txq = [] ∧
    (live [red 1]).callReturns = true ∧ ∃ t, exec (.cbSend true) (live [red 1]) = .next t :=
  ⟨live_inv _ (by decide), rfl, rfl, rfl, _, eq_stateOf (by decide +kernel)⟩

theorem wit_CbTurnOffResult :
    base.life.live = false ∧ Machine.Inv (live five) ∧ (live five).life.live = true ∧
    (live five).callReturns = true := ⟨rfl, live_inv _ (by decide), rfl, rfl⟩

theorem wit_TurnOffIsSetAllThenSend :
    Machine.Inv (live five) ∧ (live five).life.live = true ∧
    ∃ u, exec (.cbSetAll (live five).n (List.replicate (live five).n.toNat Color.black) false) (live five) =
      .next u := ⟨live_inv _ (by decide), rfl, _, eq_stateOf (by decide +kernel)⟩

theorem wit_CbReleaseResult :
    base.life = .empty ∧ released.life = .released ∧ (live five).life.live = true ∧
    (live five).callReturns = true ∧ { live five with txPlan := [.never] }.callReturns = false :=
  ⟨rfl, rfl, rfl, rfl, rfl⟩

theorem wit_StripIndexProperties : 0 < 1 ∧ 254 < 255 := by decide

/-- Mode 3 and 4, the last coordinate and the first that is out of range. -/
theorem wit_GmIndexResult :
    3 < (4 : BitVec 8).toNat ∧ (3 : BitVec 8).toNat ≤ 3 ∧
    (254 : BitVec 8).toNat < (255 : BitVec 8).toNat ∧
    ((255 : BitVec 8).toNat ≤ (255 : BitVec 8).toNat ∨ (1 : BitVec 8).toNat ≤ (0 : BitVec 8).toNat) := by
  decide

theorem wit_GmShiftResult :
    3 < (4 : BitVec 8).toNat ∧ (3 : BitVec 8).toNat ≤ 3 ∧ 254 < (255 : BitVec 8).toNat := by decide

theorem wit_DispNewResult : base.life = .empty ∧ (disp 3 blacks six).life ≠ .empty := ⟨rfl, by decide⟩

theorem wit_DispSetPixelResult :
    (live five).life ≠ .dispLive ∧ Machine.Inv (disp 3 blacks six) ∧
    (disp 3 blacks six).life = .dispLive ∧
    (2 : BitVec 8).toNat < (disp 3 blacks six).w.toNat ∧ (1 : BitVec 8).toNat < (disp 3 blacks six).h.toNat ∧
    (disp 3 blacks six).w.toNat ≤ (3 : BitVec 8).toNat ∧
    (disp 3 blacks six).h.toNat ≤ (2 : BitVec 8).toNat :=
  ⟨by decide, disp_inv _ _ _ rfl rfl, rfl, by decide, by decide, by decide, by decide⟩

theorem wit_DispRenderResult :
    (live five).life ≠ .dispLive ∧ Machine.Inv (disp 3 blacks six) ∧
    (disp 3 blacks six).life = .dispLive ∧ (disp 3 blacks six).mode.toNat ≤ 3 ∧
    3 < (disp 4 blacks six).mode.toNat ∧ IsStripIndex 3 2 1 3 3 :=
  ⟨by decide, disp_inv _ _ _ rfl rfl, rfl, by decide, by decide, by
    refine ⟨fun _ => rfl, fun h => absurd (Or.inr (Or.inr ⟨rfl, rfl⟩)) h⟩⟩

/-- Steps at the width and one beyond; a Display of no rows with any steps. -/
theorem wit_DispShiftResult :
    (live five).life ≠ .dispLive ∧ 3 < (disp 4 blacks six).mode.toNat ∧
    1 ≤ (disp 3 blacks six).h.toNat ∧ (disp 3 blacks six).w.toNat < (4 : BitVec 16).toNat ∧
    Machine.Inv (disp 3 blacks six) ∧ (3 : BitVec 16).toNat ≤ (disp 3 blacks six).w.toNat ∧
    (disp 3 blacks six).callReturns = true ∧
    Machine.Inv { live [] with life := .dispLive, h := 0, w := 3 } :=
  ⟨by decide, by decide, by decide, by decide, disp_inv _ _ _ rfl rfl, by decide, rfl,
    Memory.wf_cellsAt _ _, fun _ => (bufferInv_iff _).2 ⟨rfl, rfl⟩, fun _ => ⟨rfl, rfl⟩, rfl,
    List.Pairwise.nil, fun t ht => (by cases ht)⟩

theorem wit_ShiftMovesThePictureRight :
    Machine.Inv (disp 3 six six) ∧ (disp 3 six six).life = .dispLive ∧
    WiringMode.ofByte (disp 3 six six).mode = some .oddReversed ∧
    (3 : BitVec 16).toNat ≤ (disp 3 six six).w.toNat ∧
    ∃ t, exec (.dispShiftR 3 true) (disp 3 six six) = .next t :=
  ⟨disp_inv _ _ _ rfl rfl, rfl, rfl, by decide, _, eq_stateOf (by decide +kernel)⟩

theorem wit_RenderUndoesShift :
    Machine.Inv (disp 3 blacks six) ∧ (disp 3 blacks six).life = .dispLive ∧
    (disp 3 blacks six).mode.toNat ≤ 3 ∧
    ∃ t u v, exec .dispRender (disp 3 blacks six) = .next t ∧ exec (.dispShiftR 1 true) t = .next u ∧
      exec .dispRender u = .next v :=
  ⟨disp_inv _ _ _ rfl rfl, rfl, by decide, _, _, _, eq_stateOf (by decide +kernel),
    eq_stateOf (by decide +kernel), eq_stateOf (by decide +kernel)⟩

theorem wit_SliceWritesAreTheLoop :
    BufferInv (live five) ∧ 4 + [red 1].length ≤ (live five).n.toNat :=
  ⟨(live_inv five (by decide)).2.1 rfl, by decide⟩

/-- With nothing in flight, any command; with a transmission in flight, one that writes no byte of BUF and does
not call the transmitter: a cell of the grid, a rotation of no pixel; and that transmission completing, or
another number. -/
theorem wit_CarefulHostGetsWhatItSent :
    Machine.Inv (live five) ∧ CleanTxq (live five) ∧ Careful (.cbTurnOff true) (live five) ∧
    (∃ t, exec (.cbTurnOff true) (live five) = .next t) ∧
    (let s := after (.cbSend false) (live [red 1])
     s.txq.length = 1 ∧ callsTransmitter (.dispSetPixel 0 0 (red 1)) = false ∧
       writesBytes (.dispSetPixel 0 0 (red 1)) s = false ∧ writesBytes (.cbShiftR 1 0 0) s = false ∧
       s.txSerial ≠ (live [red 1]).txSerial ∧ (∃ x ∈ s.txq, x.serial = 0) ∧ ∀ x ∈ s.txq, x.serial ≠ 1) :=
  ⟨live_inv _ (by decide), fun t ht => (by cases ht), .inl rfl, ⟨_, eq_stateOf (by decide +kernel)⟩,
    by decide +kernel⟩

/-- One pixel, and one transmission in flight that has met no hazard. -/
def oneInFlight : State := { live [red 1] with txSerial := 1, txq := [⟨0, [], false, false, false⟩] }

theorem oneInFlight_inv : Machine.Inv oneInFlight :=
  ⟨Memory.wf_cellsAt _ _, fun _ => (bufferInv_iff _).2 ⟨rfl, rfl⟩, fun h => (by cases h), rfl,
    List.pairwise_singleton _ _, by decide⟩

/-- A hazard of each kind: the command succeeds, and the mark it sets on the transmission in flight. -/
theorem wit_HazardsAreMarked :
    Machine.Inv oneInFlight ∧
    [Instr.cbSetColor 0 (red 2), .cbSend true, .cbTurnOff true, .cbRelease].map (fun i =>
        (expectedError i oneInFlight, writesBytes i oneInFlight, (after i oneInFlight).txq)) =
      [(none, true, [⟨0, [], true, false, false⟩]), (none, false, [⟨0, [], false, true, false⟩]),
        (none, true, [⟨0, [], true, true, false⟩]), (none, false, [⟨0, [], false, false, true⟩])] :=
  ⟨oneInFlight_inv, by decide +kernel⟩

/-- A rotation of no pixel, and a send that fails: the transmission in flight stays as it was. -/
theorem wit_HazardsAreMarked_untouched :
    (writesBytes (.cbShiftL 1 0 0) oneInFlight = false ∧
      (after (.cbShiftL 1 0 0) oneInFlight).txq = oneInFlight.txq) ∧
    expectedError (.dispShiftR 1 true) oneInFlight ≠ none ∧
    (after (.dispShiftR 1 true) oneInFlight).txq = oneInFlight.txq := by decide +kernel

/-- A release in RELEASED. -/
theorem wit_HazardsAreMarked_released :
    released.life = .released ∧ (after .cbRelease released).txq = released.txq := by decide +kernel

/-- 20_memory.md R61 (b), R55: `CB_SETALL` of no colour on an empty strip writes no byte, so a transmission in
flight is not raced; a rotation by 0 of one pixel writes its bytes. -/
theorem test_empty_write_does_not_race :
    let tx : Transmission := ⟨0, [], false, false, false⟩
    (after (.cbSetAll 0 [] false) { live [] with txq := [tx] }).txq = [tx] ∧
    (after (.cbShiftR 0 1 0) { live [red 1] with txq := [tx] }).txq = [tx.touch] := by decide +kernel

theorem wit_ProfileStaysMatched :
    ProfileMatches base ∧ t1 = base.params.txDurations ∧ ∃ t, exec (.cbNew 1 t1) base = .next t :=
  ⟨fun h => (by cases h), rfl, _, eq_stateOf (by decide +kernel)⟩

theorem wit_EndedRunRests :
    EndedQuietly base ∧ ∃ t, step base = .next t :=
  ⟨⟨⟨⟨rfl, fun w h => (by cases h)⟩, rfl, rfl, rfl⟩, rfl⟩, _, rfl⟩

/-- 70_reset_and_hazards.md R241: with a word of the sequence still to be offered the run has not ended. -/
theorem test_not_ended_before_the_last_word :
    ¬ Ended { base with schedule := [.turn, .offer 0x1700000000000000] } :=
  fun h => h.1.2 0x1700000000000000 (by decide)

theorem wit_CoreCannotSeeTheTransmissions :
    coreView (live five) = coreView { live five with txq := [⟨0, [1], true, true, false⟩], txSerial := 1 } ∧
    (live five).callReturns =
      { live five with txq := [⟨0, [1], true, true, false⟩], txSerial := 1 }.callReturns := ⟨rfl, rfl⟩

theorem wit_UnspecifiedValuesCannotBeRead :
    readableView base = readableView { base with n := 7, mode := 9, pix := [red 1], grid := [red 2] } := rfl

theorem wit_ArithmeticFitsItsWidths :
    (254 : BitVec 8).toNat < (255 : BitVec 8).toNat ∧ 4 < (live five).n.toNat := by decide

end Sys2Proof.Tests
end

section
/-! PROOFS. The scope of the block (00_scope.md): it never stops on an error (R14), and no number it computes
outgrows its width (R8, R11). The first rests on one fact per array operation, that on the arrays of
10_state.md R32 it makes every access inside them. -/

namespace Sys2Proof.Machine

/-! ### The grid in strip order -/

/-- The strip index of a cell of row `y` lies before the next row (42_grid_mapper.md R151). -/
theorem toStripIndex_lt {x width : Nat} (hx : x < width) (y : Nat) (mode : WiringMode) :
    toStripIndex x y width mode < (y + 1) * width := by
  unfold toStripIndex
  rw [Nat.succ_mul]
  split <;> omega

/-- An operation of `ToStripShift` rotates a row of the grid, so it ends inside the strip
(42_grid_mapper.md R154). -/
theorem end_le_of_mem_toStripShift {mode : WiringMode} {rows width steps : Nat} {op : ShiftOp}
    (h : op ∈ toStripShift mode rows width steps) : op.start + op.length ≤ width * rows := by
  obtain ⟨y, hy, rfl⟩ := List.mem_map.1 h
  calc y * width + width = width * (y + 1) := by ring
    _ ≤ width * rows := Nat.mul_le_mul_left _ (List.mem_range.1 hy)

/-! ### Outcomes that go on -/

/-- The outcome is a next state: neither a fault nor a refusal. -/
def GivesNext (r : Host.Outcome State Fault Refusal) : Prop := ∃ t, r = .next t

theorem givesNext_next (s : State) : GivesNext (.next s) := ⟨s, rfl⟩

theorem givesNext_raise (s : State) (e : Status) : GivesNext (raise s e) := ⟨_, rfl⟩

theorem givesNext_done (s : State) (data : List Word) : GivesNext (done s data) := ⟨_, rfl⟩

theorem givesNext_commit {r : Except Fault State} {t : State} (h : r = .ok t) : GivesNext (commit r) := by
  rw [h]
  exact givesNext_done t []

/-- A failed check reports its error, so a checked command goes on if it does so where the check passes. -/
theorem givesNext_of_check {c : Prop} [Decidable c] {s : State} {e : Status}
    {r : Host.Outcome State Fault Refusal} (h : ¬ c → GivesNext r) :
    GivesNext (if c then raise s e else r) := by
  split
  · exact givesNext_raise s e
  · next hc => exact h hc

/-! ### The array operations on arrays of the right lengths -/

/-- What the commands need of the arrays: the clauses of `Inv` on them (10_state.md R32). -/
structure ArraysInv (s : State) : Prop where
  buffer : s.life.live = true → BufferInv s
  grid : s.life = .dispLive → GridInv s

theorem Inv.arrays {s : State} (h : Inv s) : ArraysInv s := ⟨h.2.1, h.2.2.1⟩

theorem Inv.dec_ok {s : State} (h : Inv s) : s.dec.ok = true := h.2.2.2.1

theorem ArraysInv.setCmd {s : State} (h : ArraysInv s) (ws : List Word) : ArraysInv (s.setCmd ws) :=
  ⟨h.buffer, h.grid⟩

theorem ArraysInv.setDec {s : State} (h : ArraysInv s) (d : Dec) : ArraysInv (s.setDec d) :=
  ⟨h.buffer, h.grid⟩

theorem ArraysInv.setSchedule {s : State} (h : ArraysInv s) (ms : List Move) :
    ArraysInv (s.setSchedule ms) :=
  ⟨h.buffer, h.grid⟩

/-- The buffer of a state that has passed the lifecycle test of the CommandBuffer. -/
theorem ArraysInv.bufferInv {s : State} (h : ArraysInv s) (hl : ¬ s.life.live = false) : BufferInv s :=
  h.buffer (Bool.eq_true_of_not_eq_false hl)

/-- The buffer and the grid of a state that has passed the lifecycle test of the Display. -/
theorem ArraysInv.displayInv {s : State} (h : ArraysInv s) (hl : ¬ s.life ≠ .dispLive) :
    BufferInv s ∧ GridInv s := by
  have hd : s.life = .dispLive := not_not.1 hl
  exact ⟨h.buffer (by rw [hd]; rfl), h.grid hd⟩

/-- `SliceWrite` on pixels of the strip goes through and keeps the buffer invariant. -/
theorem writeSlices_ok {s : State} (h : BufferInv s) {start : Nat} {cs : List Color}
    (hb : start + cs.length ≤ s.n.toNat) : ∃ t, s.writeSlices start cs = .ok t ∧ BufferInv t := by
  refine ⟨_, writeSlices_eq h hb, ?_⟩
  obtain ⟨-, hp⟩ := (bufferInv_iff s).1 h
  split
  · exact h
  · exact bufferInv_withPix s _ (by rw [splice_length _ _ _ (by omega), hp])

/-- The rows' rotations go through on ranges of the strip and keep the buffer invariant. -/
theorem rotateRows_ok {s : State} (h : BufferInv s) {ops : List ShiftOp}
    (hb : ∀ op ∈ ops, op.start + op.length ≤ s.n.toNat) :
    ∃ t, s.rotateRows ops = .ok t ∧ BufferInv t := by
  refine ⟨_, rotateRows_eq h hb, ?_⟩
  obtain ⟨-, hp⟩ := (bufferInv_iff s).1 h
  split
  · exact h
  · exact bufferInv_withPix s _ (by rw [applyRows_length _ _ (by rwa [hp]), hp])

/-- The permuted grid has one colour per cell. -/
theorem permuteGrid_ok {s : State} (h : GridInv s) (mode : WiringMode) :
    ∃ p, s.permuteGrid mode = .ok p ∧ p.length = s.n.toNat := by
  obtain ⟨hn, hg⟩ := h
  exact ⟨_, if_pos hg, by simp [permute, hn]⟩

/-- A send hands over the whole buffer, and the call returns or stays outstanding. -/
theorem givesNext_sendAndFinish {s : State} (h : BufferInv s) (wait : Bool) :
    GivesNext (sendAndFinish s wait) := by
  unfold sendAndFinish afterCall
  rw [txSend_eq h]
  dsimp only
  split
  · exact givesNext_done _ []
  · exact givesNext_next _

/-! ### The commands -/

theorem givesNext_cbNew (n : BitVec 16) (tp : TimingProfile) (s : State) :
    GivesNext (execCbNew n tp s) := by
  unfold execCbNew
  cases s.life with
  | empty => exact givesNext_done _ []
  | cbLive | dispLive | released => exact givesNext_raise s _

theorem givesNext_cbSetColor {s : State} (h : ArraysInv s) (index : BitVec 16) (c : Color) :
    GivesNext (execCbSetColor index c s) := by
  refine givesNext_of_check fun hl => givesNext_of_check fun hi => ?_
  obtain ⟨t, ht, -⟩ := writeSlices_ok (cs := [c]) (h.bufferInv hl) (Nat.lt_of_not_le hi)
  exact givesNext_commit ht

/-- A clean payload holds `count` colours, and `count` is checked against the strip. -/
theorem givesNext_cbSetAll {s : State} (h : ArraysInv s) {count : BitVec 16} {cs : List Color} {bad : Bool}
    (hw : (Instr.cbSetAll count cs bad).wellFormed = true) : GivesNext (execCbSetAll count cs bad s) := by
  refine givesNext_of_check fun hb => givesNext_of_check fun hl => givesNext_of_check fun hn => ?_
  have hlen : cs.length = count.toNat := by simpa [Instr.wellFormed, hb] using hw
  obtain ⟨t, ht, -⟩ := writeSlices_ok (start := 0) (cs := cs) (h.bufferInv hl) (by omega)
  exact givesNext_commit ht

/-- A rotation that has passed the range check ends inside the strip (41_command_buffer.md R127). -/
theorem end_le_of_shiftError_none {n start length steps : BitVec 16}
    (h : shiftError n start length steps = none) : start.toNat + length.toNat ≤ n.toNat := by
  by_contra hlt
  simp [shiftError, Nat.lt_of_not_le hlt] at h

theorem givesNext_cbShiftR {s : State} (h : ArraysInv s) (start length steps : BitVec 16) :
    GivesNext (execCbShiftR start length steps s) := by
  refine givesNext_of_check fun hl => ?_
  cases he : shiftError s.n start length steps with
  | some e => exact givesNext_raise s e
  | none => exact givesNext_commit (rangeRotate_eq (h.bufferInv hl) (end_le_of_shiftError_none he))

theorem givesNext_cbShiftL {s : State} (h : ArraysInv s) (start length steps : BitVec 16) :
    GivesNext (execCbShiftL start length steps s) := by
  refine givesNext_of_check fun hl => ?_
  cases he : shiftError s.n start length steps with
  | some e => exact givesNext_raise s e
  | none => exact givesNext_commit (rangeRotate_eq (h.bufferInv hl) (end_le_of_shiftError_none he))

theorem givesNext_cbSend {s : State} (h : ArraysInv s) (wait : Bool) : GivesNext (execCbSend wait s) :=
  givesNext_of_check fun hl => givesNext_sendAndFinish (h.bufferInv hl) wait

theorem givesNext_cbTurnOff {s : State} (h : ArraysInv s) (wait : Bool) :
    GivesNext (execCbTurnOff wait s) := by
  refine givesNext_of_check fun hl => ?_
  obtain ⟨t, ht, hinv⟩ := writeSlices_ok (start := 0) (cs := List.replicate s.n.toNat Color.black)
    (h.bufferInv hl) (by simp)
  rw [ht]
  exact givesNext_sendAndFinish hinv wait

theorem givesNext_cbRelease (s : State) : GivesNext (execCbRelease s) := by
  unfold execCbRelease
  cases s.life with
  | empty => exact givesNext_raise s _
  | released => exact givesNext_done s []
  | cbLive | dispLive =>
    dsimp only
    split
    · exact givesNext_done _ []
    · exact givesNext_next _

theorem givesNext_gmIndex (x y width height mode : BitVec 8) (s : State) :
    GivesNext (execGmIndex x y width height mode s) := by
  unfold execGmIndex
  cases WiringMode.ofByte mode with
  | none => exact givesNext_raise s _
  | some m => exact givesNext_of_check fun _ => givesNext_done s _

theorem givesNext_gmShift (mode rows width : BitVec 8) (steps : BitVec 16) (s : State) :
    GivesNext (execGmShift mode rows width steps s) := by
  unfold execGmShift
  cases WiringMode.ofByte mode with
  | none => exact givesNext_raise s _
  | some m => exact givesNext_done s _

theorem givesNext_dispNew (width height mode : BitVec 8) (tp : TimingProfile) (s : State) :
    GivesNext (execDispNew width height mode tp s) := by
  unfold execDispNew
  cases s.life with
  | empty => exact givesNext_done _ []
  | cbLive | dispLive | released => exact givesNext_raise s _

/-- The cell written is the strip index of its coordinates in the chained wiring, which lies before the
row after it. -/
theorem givesNext_dispSetPixel {s : State} (h : ArraysInv s) (x y : BitVec 8) (c : Color) :
    GivesNext (execDispSetPixel x y c s) := by
  refine givesNext_of_check fun hl => givesNext_of_check fun hxy => ?_
  obtain ⟨-, -, hg⟩ := h.displayInv hl
  obtain ⟨hx, hy⟩ : x.toNat < s.w.toNat ∧ y.toNat < s.h.toNat := by omega
  have ha : x.toNat + y.toNat * s.w.toNat < s.grid.length :=
    calc x.toNat + y.toNat * s.w.toNat < (y.toNat + 1) * s.w.toNat := toStripIndex_lt hx y.toNat .chained
      _ ≤ s.h.toNat * s.w.toNat := Nat.mul_le_mul_right _ hy
      _ = s.grid.length := by rw [hg, Nat.mul_comm]
  exact givesNext_commit (writeGrid_eq c ha)

theorem givesNext_dispRender {s : State} (h : ArraysInv s) : GivesNext (execDispRender s) := by
  refine givesNext_of_check fun hl => ?_
  obtain ⟨hbuf, hgrid⟩ := h.displayInv hl
  cases WiringMode.ofByte s.mode with
  | none => exact givesNext_raise s _
  | some m =>
    obtain ⟨p, hp, hlen⟩ := permuteGrid_ok hgrid m
    obtain ⟨t, ht, -⟩ := writeSlices_ok (start := 0) (cs := p) hbuf (by omega)
    simp only [hp, ht]
    exact givesNext_done t _

theorem givesNext_dispShiftR {s : State} (h : ArraysInv s) (steps : BitVec 16) (wait : Bool) :
    GivesNext (execDispShiftR steps wait s) := by
  refine givesNext_of_check fun hl => ?_
  obtain ⟨hbuf, hn, -⟩ := h.displayInv hl
  cases WiringMode.ofByte s.mode with
  | none => exact givesNext_raise s _
  | some m =>
    refine givesNext_of_check fun _ => ?_
    obtain ⟨t, ht, hinv⟩ := rotateRows_ok hbuf fun op hop =>
      (end_le_of_mem_toStripShift hop).trans_eq hn.symm
    rw [ht]
    exact givesNext_sendAndFinish hinv wait

/-- Every well-formed command goes on, on arrays of the right lengths (60_exceptions.md R187). -/
theorem givesNext_exec {s : State} (h : ArraysInv s) {i : Instr} (hw : i.wellFormed = true) :
    GivesNext (exec i s) := by
  cases i with
  | peEncode c tp => exact givesNext_done s _
  | cbNew n tp => exact givesNext_cbNew n tp s
  | cbSetColor k c => exact givesNext_cbSetColor h k c
  | cbSetAll n cs bad => exact givesNext_cbSetAll h hw
  | cbShiftR a l k => exact givesNext_cbShiftR h a l k
  | cbShiftL a l k => exact givesNext_cbShiftL h a l k
  | cbSend b => exact givesNext_cbSend h b
  | cbTurnOff b => exact givesNext_cbTurnOff h b
  | cbRelease => exact givesNext_cbRelease s
  | gmIndex x y w ht m => exact givesNext_gmIndex x y w ht m s
  | gmShift m rows w k => exact givesNext_gmShift m rows w k s
  | dispNew w ht m tp => exact givesNext_dispNew w ht m tp s
  | dispSetPixel x y c => exact givesNext_dispSetPixel h x y c
  | dispRender => exact givesNext_dispRender h
  | dispShiftR k b => exact givesNext_dispShiftR h k b

/-! ### The step -/

/-- The `CB_SETALL` that the decoder hands over with its last payload word is well formed: each word has
appended a colour or set the mark (30_encoding.md R96). -/
theorem wellFormed_of_last_payload {count : BitVec 16} {got : Nat} {cs : List Color} {bad : Bool}
    (hok : (Dec.payload count got cs bad).ok = true) (hlast : got + 1 = count.toNat) (w : Word) :
    (Instr.cbSetAll count (acceptPayload (cs, bad) w).1 (acceptPayload (cs, bad) w).2).wellFormed = true := by
  obtain ⟨-, hcs⟩ : got < count.toNat ∧ _ := by simpa [Dec.ok] using hok
  by_cases hw : field w 24 40 = 0
  · rw [acceptPayload_clean hw]
    cases bad <;> simp [Instr.wellFormed] at hcs ⊢ <;> omega
  · rw [acceptPayload_bad hw]
    cases bad <;> simp [Instr.wellFormed] at hcs ⊢ <;> omega

theorem givesNext_runHeader {s : State} (h : ArraysInv s) (w : Word) : GivesNext (runHeader w s) := by
  unfold runHeader
  split
  · next hi => exact givesNext_exec h (decode_wellFormed hi)
  · exact givesNext_raise s _

theorem givesNext_acceptWord {s : State} (h : ArraysInv s) (hok : s.dec.ok = true) (w : Word) :
    GivesNext (acceptWord w s) := by
  unfold acceptWord
  cases hd : s.dec with
  | idle =>
    dsimp only
    split
    · exact givesNext_runHeader h w
    · exact givesNext_next _
  | payload count got cs bad =>
    rw [hd] at hok
    dsimp only
    split
    · next hlast => exact givesNext_exec (h.setDec .idle) (wellFormed_of_last_payload hok hlast w)
    · exact givesNext_next _

theorem givesNext_turn {s : State} (h : ArraysInv s) (hok : s.dec.ok = true) : GivesNext (turn s) := by
  unfold turn
  split
  · split <;> exact givesNext_next _
  · split
    · exact givesNext_next s
    · split
      · exact givesNext_next s
      · next w ws _ => exact givesNext_acceptWord (h.setCmd ws) hok w

theorem givesNext_runMove {s : State} (h : ArraysInv s) (hok : s.dec.ok = true) (m : Move) :
    GivesNext (runMove m s) := by
  cases m with
  | turn => exact givesNext_turn h hok
  | complete k => exact givesNext_next _
  | reset => exact givesNext_next _
  | offer w => exact givesNext_next _
  | setReady b => exact givesNext_next _

theorem givesNext_step {s : State} (h : ArraysInv s) (hok : s.dec.ok = true) : GivesNext (step s) := by
  unfold step stepMove
  split
  · exact givesNext_turn h hok
  · next m ms _ => exact givesNext_runMove (h.setSchedule ms) hok m

/-- Settles O16: every array operation of a command that passes its checks stays inside the arrays that the
invariant describes, and the decoder hands over well-formed commands only. -/
theorem stepNeverStops : Obligations.StepNeverStops :=
  fun _ h => givesNext_step h.arrays h.dec_ok

/-! ### Widths -/

theorem byte_le (b : BitVec 8) : b.toNat ≤ 255 := Nat.le_of_lt_succ b.isLt

/-- The strip index of a cell of a grid of 8-bit size. -/
theorem toStripIndex_le (mode : WiringMode) {x y w h : BitVec 8} (hx : x.toNat < w.toNat)
    (hy : y.toNat < h.toNat) : toStripIndex x.toNat y.toNat w.toNat mode ≤ 65024 := by
  have hrow : y.toNat + 1 ≤ 255 := Nat.le_trans hy (byte_le h)
  have hlt : toStripIndex x.toNat y.toNat w.toNat mode < 255 * 255 :=
    (toStripIndex_lt hx y.toNat mode).trans_le (Nat.mul_le_mul hrow (byte_le w))
  omega

/-- The start of a row of a grid of 8-bit size. -/
theorem rowStart_le {y rows : BitVec 8} (hy : y.toNat < rows.toNat) (width : BitVec 8) :
    y.toNat * width.toNat ≤ 64770 := by
  have hrow : y.toNat ≤ 254 := Nat.le_of_lt_succ (hy.trans_le (byte_le rows))
  exact Nat.mul_le_mul hrow (byte_le width)

/-- The slice of a pixel of the strip ends inside the buffer (20_memory.md R52). -/
theorem slice_end_le_bufLength (s : State) {i : Nat} (hi : i < s.n.toNat) :
    s.slice i + 96 ≤ s.bufLength := by
  unfold State.slice State.bufLength
  omega

/-- The longest buffer has 65535 slices (10_state.md R28). -/
theorem bufLength_le (s : State) : s.bufLength ≤ s.params.headerBytes + 6291360 := by
  have hn : s.n.toNat < 65536 := s.n.isLt
  unfold State.bufLength
  omega

/-- Settles O60, from the bounds of 8-bit and 16-bit operands. -/
theorem arithmeticFitsItsWidths : Obligations.ArithmeticFitsItsWidths :=
  ⟨fun mode _ _ _ _ hx hy => toStripIndex_le mode hx hy,
   fun w h => Nat.mul_le_mul (byte_le w) (byte_le h),
   fun _ _ width hy => rowStart_le hy width,
   fun s _ hi => ⟨slice_end_le_bufLength s hi, bufLength_le s⟩⟩

end Sys2Proof.Machine
end

section
/-! PROOFS. What a command and a step leave unchanged of the core's registers and arrays (10_state.md R21 to
R31). Each rule is a case analysis over `Effect` for a command and over `StepEffect` for a step. -/

namespace Sys2Proof.Machine

open Sys2Proof.Claims

/-! ### The commands -/

/-- A release changes the transmitter's part; where the call returns LIFE becomes RELEASED and the response
gets its status word, where it does not the call stays outstanding (41_command_buffer.md R136). -/
theorem cbRelease_frame {s t : State} (hl : s.life.live = true) (h : exec .cbRelease s = .next t) :
    ∃ pl q d, t =
      { s with
        txPlan := pl, txq := q, strip := d, txCalls := s.txCalls ++ [.release]
        txCall := if s.callReturns then none else some .release
        rsp := if s.callReturns then s.rsp ++ [statusWord .ok] else s.rsp
        life := if s.callReturns then .released else s.life } := by
  obtain ⟨pl, q, d, e⟩ := txRelease_frame s
  simp only [exec, execCbRelease] at h
  split at h
  case h_1 he => rw [he] at hl; cases hl
  case h_2 he => rw [he] at hl; cases hl
  all_goals
    rw [e] at h
    cases hc : s.callReturns <;> simp only [hc] at h ⊢ <;> cases h <;>
      exact ⟨pl, q, d, by simp [State.respond, State.setLife]⟩

/-- Two states hold the same session: N, TP, W, H, MODE (10_state.md R22 to R25). -/
def SameSession (s t : State) : Prop :=
  t.n = s.n ∧ t.tp = s.tp ∧ t.w = s.w ∧ t.h = s.h ∧ t.mode = s.mode

theorem SameSession.refl (s : State) : SameSession s s := ⟨rfl, rfl, rfl, rfl, rfl⟩

/-- The same parameters, decoder phase, session and grid. -/
structure SameRegisters (s t : State) : Prop where
  params : t.params = s.params
  dec : t.dec = s.dec
  session : SameSession s t
  grid : t.grid = s.grid

/-- A send, after a write of the arrays or without one, keeps the registers, LIFE among them. -/
theorem send_sameRegisters {s u t : State} {wait : Bool} {P Q : Prop}
    (hu : (P ∧ u = s) ∨ (Q ∧ ∃ p b, u = s.written p b)) (e : sendAndFinish u wait = .next t) :
    SameRegisters s t ∧ t.life = s.life := by
  obtain ⟨b, pl, q, d, rfl⟩ := sendAndFinish_frame e
  obtain ⟨-, rfl⟩ | ⟨-, p, m, rfl⟩ := hu <;> exact ⟨⟨rfl, rfl, .refl _, rfl⟩, rfl⟩

/-- A release keeps the registers but LIFE. -/
theorem cbRelease_sameRegisters {s t : State} (hl : s.life.live = true)
    (h : exec .cbRelease s = .next t) :
    SameRegisters s t ∧ t.life = if s.callReturns then .released else s.life := by
  obtain ⟨pl, q, d, rfl⟩ := cbRelease_frame hl h
  exact ⟨⟨rfl, rfl, .refl _, rfl⟩, rfl⟩

/-- No command writes a parameter or the decoder phase. -/
theorem exec_params_dec {i : Instr} {s t : State} (h : exec i s = .next t) :
    t.params = s.params ∧ t.dec = s.dec := by
  cases exec_effect h with
  | response | cell | buffer | display | arrays => exact ⟨rfl, rfl⟩
  | send u _ _ hu _ _ _ e =>
    obtain ⟨hr, -⟩ := send_sameRegisters hu e
    exact ⟨hr.params, hr.dec⟩
  | release hi hl =>
    subst hi
    obtain ⟨hr, -⟩ := cbRelease_sameRegisters hl h
    exact ⟨hr.params, hr.dec⟩

/-- A command writes the session's registers in EMPTY only. -/
theorem exec_session {i : Instr} {s t : State} (hl : s.life ≠ .empty) (h : exec i s = .next t) :
    SameSession s t := by
  cases exec_effect h with
  | response | cell | arrays => exact .refl s
  | buffer _ _ _ he | display _ _ _ _ _ he => exact absurd he hl
  | send u _ _ hu _ _ _ e => exact (send_sameRegisters hu e).1.session
  | release hi hv =>
    subst hi
    exact (cbRelease_sameRegisters hv h).1.session

theorem Life.live_iff {l : Life} : l.live = true ↔ l = .cbLive ∨ l = .dispLive := by
  cases l <;> decide

/-- How a command can change LIFE (10_state.md R21). -/
theorem exec_life {i : Instr} {s t : State} (h : exec i s = .next t) :
    t.life = s.life ∨
    ((∃ n p, i = .cbNew n p) ∧ s.life = .empty ∧ t.life = .cbLive) ∨
    ((∃ w h m p, i = .dispNew w h m p) ∧ s.life = .empty ∧ t.life = .dispLive) ∨
    (i = .cbRelease ∧ (s.life = .cbLive ∨ s.life = .dispLive) ∧ t.life = .released) := by
  cases exec_effect h with
  | response | cell | arrays => exact .inl rfl
  | buffer n tp hi hl => exact .inr (.inl ⟨⟨n, tp, hi⟩, hl, rfl⟩)
  | display w ht m tp hi hl => exact .inr (.inr (.inl ⟨⟨w, ht, m, tp, hi⟩, hl, rfl⟩))
  | send u _ _ hu _ _ _ e => exact .inl (send_sameRegisters hu e).2
  | release hi hl =>
    subst hi
    obtain ⟨-, e⟩ := cbRelease_sameRegisters hl h
    rw [e]
    cases s.callReturns
    · exact .inl rfl
    · exact .inr (.inr (.inr ⟨rfl, Life.live_iff.1 hl, rfl⟩))

/-- GRID is written by DISP_NEW and DISP_SETPIXEL only (10_state.md R31). -/
theorem exec_grid {i : Instr} {s t : State} (hn : ∀ w h m p, i ≠ .dispNew w h m p)
    (hp : ∀ x y c, i ≠ .dispSetPixel x y c) (h : exec i s = .next t) : t.grid = s.grid := by
  cases exec_effect h with
  | response | buffer | arrays => rfl
  | cell x y c _ hi => exact absurd hi (hp x y c)
  | display w ht m tp hi => exact absurd hi (hn w ht m tp)
  | send u _ _ hu _ _ _ e => exact (send_sameRegisters hu e).1.grid
  | release hi hl =>
    subst hi
    exact (cbRelease_sameRegisters hl h).1.grid

/-- A command that writes no BUF and calls nothing changes the response and GRID at most. -/
theorem exec_of_no_write_no_call {i : Instr} {s t : State} (hw : writesBuf i = false)
    (hc : callsTransmitter i = false) (h : exec i s = .next t) :
    t = { s with rsp := t.rsp, grid := t.grid } := by
  cases exec_effect h with
  | response | cell => rfl
  | buffer _ _ hi => subst hi; cases hw
  | display _ _ _ _ hi => subst hi; cases hw
  | arrays _ _ _ hb => rw [writesBuf_of_writesBytes hb] at hw; cases hw
  | send _ _ _ _ hs => rw [hs] at hc; cases hc
  | release hi => subst hi; cases hc

/-- After release a command only responds. -/
theorem exec_of_released {i : Instr} {s t : State} (hl : s.life = .released) (h : exec i s = .next t) :
    ∃ data e, t = s.respond data e := by
  have hv : ¬ s.life.live = true := by rw [hl]; decide
  have he : ¬ s.life = .empty := by rw [hl]; decide
  cases exec_effect h with
  | response data e => exact ⟨data, e, rfl⟩
  | cell _ _ _ _ _ hd => exact absurd (Life.live_iff.2 (.inr hd)) hv
  | buffer _ _ _ h0 | display _ _ _ _ _ h0 => exact absurd h0 he
  | arrays _ _ _ _ _ h1 | send _ _ _ _ _ _ h1 | release _ h1 => exact absurd h1 hv

/-- Settles O27. The pixels and the buffer stay since a DISP_SETPIXEL writes no BUF and calls nothing. -/
theorem gridAndPixelsAreSeparate : Obligations.GridAndPixelsAreSeparate := by
  refine fun i s t h => ⟨fun hn hp => exec_grid hn hp h, ?_⟩
  rintro x y c rfl
  have e := exec_of_no_write_no_call rfl rfl h
  rw [e]
  exact ⟨rfl, rfl⟩

/-- Settles O28. -/
theorem safeCommandsTouchNothing : Obligations.SafeCommandsTouchNothing := by
  rintro i s t h ⟨hw, hc⟩
  refine ⟨exec_of_no_write_no_call hw hc h, fun hp => exec_grid ?_ hp h⟩
  rintro w ht m p rfl
  cases hw

/-! ### The step -/

/-- The same parameters, registers and arrays, the same calls made. -/
structure SameCore (s t : State) : Prop where
  params : t.params = s.params
  life : t.life = s.life
  session : SameSession s t
  buf : t.buf = s.buf
  pix : t.pix = s.pix
  grid : t.grid = s.grid
  txCalls : t.txCalls = s.txCalls

theorem sameCore_complete (s : State) (k : Nat) : SameCore s (s.begun.complete k) := by
  obtain ⟨q, d, e⟩ := complete_frame s.begun k
  rw [e]
  exact ⟨rfl, rfl, .refl s, rfl, rfl, rfl, rfl⟩

/-- The state in which a command runs: the move is taken from the schedule, the command's last word from
the port, and the decoder is in IDLE again. -/
def State.fetched (s : State) (ws : List Word) : State := (s.begun.setCmd ws).setDec .idle

/-- A step keeps the core's registers and arrays, or is the reset, or runs a command. -/
theorem step_core {s t : State} (h : step s = .next t) :
    SameCore s t ∨ (s.schedule.head? = some .reset ∧ t = s.begun.applyReset) ∨
      ∃ i ws, exec i (s.fetched ws) = .next t := by
  cases step_effect h with
  | wait | take | offer | ready | decoder | illegal =>
    exact .inl ⟨rfl, rfl, .refl s, rfl, rfl, rfl, rfl⟩
  | complete k => exact .inl (sameCore_complete s k)
  | reset hs => exact .inr (.inl ⟨hs, rfl⟩)
  | command i w ws _ _ _ _ _ e => exact .inr (.inr ⟨i, ws, e⟩)

/-- Settles O22. -/
theorem lifecycleTransitions : Obligations.LifecycleTransitions := by
  refine ⟨fun _ _ _ h => exec_life h, fun s t h => ?_⟩
  obtain hc | ⟨hs, rfl⟩ | ⟨i, ws, e⟩ := step_core h
  · exact .inl hc.life
  · exact .inr (.inl ⟨hs, rfl⟩)
  · obtain hl | ⟨-, hl, ht⟩ | ⟨-, hl, ht⟩ | ⟨-, hl, ht⟩ := exec_life e
    · exact .inl hl
    · exact .inr (.inr (.inl ⟨hl, .inl ht⟩))
    · exact .inr (.inr (.inl ⟨hl, .inr ht⟩))
    · exact .inr (.inr (.inr ⟨hl, ht⟩))

/-- Settles O23: in RELEASED a command only responds. -/
theorem releasedIsFinal : Obligations.ReleasedIsFinal := by
  intro s t hl hs h
  suffices hc : SameCore s t by
    obtain ⟨hn, htp, hw, hh, hm⟩ := hc.session
    exact ⟨hc.life.trans hl, hc.txCalls, hn, htp, hw, hh, hm, hc.buf, hc.pix, hc.grid⟩
  obtain hc | ⟨hr, -⟩ | ⟨i, ws, e⟩ := step_core h
  · exact hc
  · exact absurd hr hs
  · obtain ⟨data, st, rfl⟩ := exec_of_released (s := s.fetched ws) hl e
    exact ⟨rfl, rfl, .refl s, rfl, rfl, rfl, rfl⟩

/-- Settles O25: a command writes the session's registers in EMPTY only, and a reset leads to EMPTY. -/
theorem sessionRegistersAreWrittenOnce : Obligations.SessionRegistersAreWrittenOnce := by
  intro s t h
  obtain hc | ⟨-, rfl⟩ | ⟨i, ws, e⟩ := step_core h
  · exact ⟨hc.params, fun _ _ => hc.session⟩
  · exact ⟨rfl, fun _ ht => absurd rfl ht⟩
  · exact ⟨(exec_params_dec e).1, fun hs _ => exec_session (s := s.fetched ws) hs e⟩

/-- A reset keeps what is in flight and cuts it. -/
theorem sameInFlight_cutShort (q : List Transmission) : SameInFlight q (q.map Transmission.cutShort) := by
  simp [SameInFlight, Transmission.cutShort, Function.comp_def]

/-- Settles O17: the reset move gives the state of `State.applyReset`. -/
theorem resetInputClearsTheCore : Obligations.ResetInputClearsTheCore := by
  intro s ms h
  refine ⟨(s.setSchedule ms).applyReset, step_of_schedule h, rfl, rfl, rfl, rfl, rfl, rfl, rfl, rfl,
    sameInFlight_cutShort s.txq, fun x hx => ?_, rfl, rfl, rfl, rfl, rfl, rfl⟩
  obtain ⟨y, -, rfl⟩ := List.mem_map.1 hx
  rfl

end Sys2Proof.Machine
end

section
/-! PROOFS. The invariant of the machine (10_state.md R32): it holds at reset and every step keeps it. The
arrays' part rests on one fact per array operation, that where it goes through it keeps the buffer invariant;
the transmitter's part on one fact per act of the transmitter. -/

namespace Sys2Proof.Machine

/-! ### The array operations keep the buffer invariant -/

/-- A buffer that meets the invariant is in canonical form. -/
theorem BufferInv.wf {s : State} (h : BufferInv s) : s.buf.wf := by
  rw [((bufferInv_iff s).1 h).1]
  exact Memory.wf_cellsAt _ _

theorem BufferInv.pix_length {s : State} (h : BufferInv s) : s.pix.length = s.n.toNat :=
  ((bufferInv_iff s).1 h).2

/-- A `SliceWrite` that goes through ends inside PIX. -/
theorem end_le_of_writeSlices {s t : State} {start : Nat} {cs : List Color} (hc : cs ≠ [])
    (e : s.writeSlices start cs = .ok t) : start + cs.length ≤ s.pix.length := by
  by_contra hn
  simp [State.writeSlices, State.writePix, hc, hn] at e

/-- A `RangeRotate` that goes through reads its blocks inside the buffer, so it ends inside the strip. -/
theorem end_le_of_rangeRotate {s t : State} (h : BufferInv s) {start length steps : Nat} {dir : Direction}
    (hl : length ≠ 0) (e : s.rangeRotate start length steps dir = .ok t) :
    start + length ≤ s.n.toNat := by
  obtain ⟨hb, hp⟩ := (bufferInv_iff s).1 h
  have hread : (s.buf.readBytes (s.slice start) (96 * length)).length = 96 * length := by
    by_contra hn
    have hf : s.readBuf (s.slice start) (96 * length) = .error .bufOutOfBounds := if_neg hn
    simp only [State.rangeRotate, hl, if_false, touchTx_readBuf, touchTx_slice, hf] at e
    split at e
    · next hB => cases hB
    all_goals cases e
  have hi := image_length s
  rw [hb, Memory.readBytes_cellsAt, List.length_take, List.length_drop, State.slice] at hread
  omega

theorem BufferInv.writeSlices {s t : State} (h : BufferInv s) {start : Nat} {cs : List Color}
    (e : s.writeSlices start cs = .ok t) : BufferInv t := by
  by_cases hc : cs = []
  · simp only [State.writeSlices, hc, if_true] at e
    cases e
    exact h
  · obtain ⟨u, hu, hi⟩ := writeSlices_ok h ((end_le_of_writeSlices hc e).trans_eq h.pix_length)
    rw [e] at hu
    cases hu
    exact hi

theorem BufferInv.rangeRotate {s t : State} (h : BufferInv s) {start length steps : Nat} {dir : Direction}
    (e : s.rangeRotate start length steps dir = .ok t) : BufferInv t := by
  by_cases hl : length = 0
  · simp only [State.rangeRotate, hl, if_true] at e
    cases e
    exact h
  · have hb := end_le_of_rangeRotate h hl e
    rw [rangeRotate_eq h hb, if_neg hl] at e
    cases e
    have hp := h.pix_length
    exact bufferInv_withPix s _ (by rw [splice_length _ _ _ (by simp; omega), hp])

theorem BufferInv.rotateRows {s t : State} (h : BufferInv s) {ops : List ShiftOp}
    (e : s.rotateRows ops = .ok t) : BufferInv t := by
  induction ops generalizing s with
  | nil => cases e; exact h
  | cons op ops ih =>
    unfold State.rotateRows at e
    split at e
    · cases e
    · next u hu => exact ih (h.rangeRotate hu) e

/-! ### The commands keep the buffer invariant -/

/-- Where the command goes on, the next state meets the buffer invariant. -/
def EnsuresBuffer (r : Host.Outcome State Fault Refusal) : Prop := ∀ t, r = .next t → BufferInv t

theorem ensuresBuffer_done {s : State} (h : BufferInv s) (data : List Word) :
    EnsuresBuffer (done s data) := by
  rintro _ ⟨⟩
  exact h

theorem ensuresBuffer_raise {s : State} (h : BufferInv s) (e : Status) : EnsuresBuffer (raise s e) := by
  rintro _ ⟨⟩
  exact h

theorem ensuresBuffer_of_check {c : Prop} [Decidable c] {s : State} (h : BufferInv s) {e : Status}
    {r : Host.Outcome State Fault Refusal} (hr : EnsuresBuffer r) :
    EnsuresBuffer (if c then raise s e else r) := by
  split
  · exact ensuresBuffer_raise h e
  · exact hr

theorem ensuresBuffer_commit {r : Except Fault State} (h : ∀ u, r = .ok u → BufferInv u) :
    EnsuresBuffer (commit r) := by
  intro t ht
  obtain ⟨u, hu, rfl⟩ := commit_next ht
  exact h u hu

theorem ensuresBuffer_sendAndFinish {s : State} (h : BufferInv s) (wait : Bool) :
    EnsuresBuffer (sendAndFinish s wait) := by
  intro t ht
  obtain ⟨b, pl, q, d, rfl⟩ := sendAndFinish_frame ht
  exact h

/-- CB_SHIFTR and CB_SHIFTL, which differ in the direction only (41_command_buffer.md R128, R129). -/
def execShift (dir : Direction) (start length steps : BitVec 16) (s : State) :
    Host.Outcome State Fault Refusal :=
  if s.life.live = false then raise s .lifecycleError
  else
    match shiftError s.n start length steps with
    | some e => raise s e
    | none => commit (s.rangeRotate start.toNat length.toNat steps.toNat dir)

theorem exec_cbShiftR (a l k : BitVec 16) (s : State) :
    exec (.cbShiftR a l k) s = execShift .right a l k s := rfl

theorem exec_cbShiftL (a l k : BitVec 16) (s : State) :
    exec (.cbShiftL a l k) s = execShift .left a l k s := rfl

theorem ensuresBuffer_execShift {s : State} (h : BufferInv s) (dir : Direction) (a l k : BitVec 16) :
    EnsuresBuffer (execShift dir a l k s) := by
  refine ensuresBuffer_of_check h ?_
  split
  · exact ensuresBuffer_raise h _
  · exact ensuresBuffer_commit fun _ => h.rangeRotate

theorem ensuresBuffer_cbTurnOff {s : State} (h : BufferInv s) (wait : Bool) :
    EnsuresBuffer (execCbTurnOff wait s) := by
  refine ensuresBuffer_of_check h ?_
  split
  · rintro _ ⟨⟩
  · next u hu => exact ensuresBuffer_sendAndFinish (h.writeSlices hu) wait

theorem ensuresBuffer_dispRender {s : State} (h : BufferInv s) : EnsuresBuffer (execDispRender s) := by
  refine ensuresBuffer_of_check h ?_
  split
  · exact ensuresBuffer_raise h _
  · split
    · rintro _ ⟨⟩
    · split
      · rintro _ ⟨⟩
      · next u hu => exact ensuresBuffer_done (h.writeSlices hu) _

theorem ensuresBuffer_dispShiftR {s : State} (h : BufferInv s) (k : BitVec 16) (wait : Bool) :
    EnsuresBuffer (execDispShiftR k wait s) := by
  refine ensuresBuffer_of_check h ?_
  split
  · exact ensuresBuffer_raise h _
  · refine ensuresBuffer_of_check h ?_
    split
    · rintro _ ⟨⟩
    · next u hu => exact ensuresBuffer_sendAndFinish (h.rotateRows hu) wait

/-- A command that writes no BUF and calls nothing leaves what the invariant speaks of. -/
theorem ensuresBuffer_of_no_write_no_call {s : State} (h : BufferInv s) {i : Instr}
    (hw : writesBuf i = false) (hc : callsTransmitter i = false) : EnsuresBuffer (exec i s) := by
  intro t ht
  rw [exec_of_no_write_no_call hw hc ht]
  exact h

theorem cbNew_of_live {s : State} (hl : s.life.live = true) {n : BitVec 16} {tp : TimingProfile} :
    exec (.cbNew n tp) s = raise s .lifecycleError := by
  simp only [exec, execCbNew]
  split
  · next he => rw [he] at hl; cases hl
  all_goals rfl

theorem dispNew_of_live {s : State} (hl : s.life.live = true) {w h m : BitVec 8} {tp : TimingProfile} :
    exec (.dispNew w h m tp) s = raise s .lifecycleError := by
  simp only [exec, execDispNew]
  split
  · next he => rw [he] at hl; cases hl
  all_goals rfl

/-- A command from a live state keeps the buffer invariant. -/
theorem ensuresBuffer_exec {s : State} (h : BufferInv s) (hl : s.life.live = true) (i : Instr) :
    EnsuresBuffer (exec i s) := by
  cases i with
  | peEncode | gmIndex | gmShift | dispSetPixel => exact ensuresBuffer_of_no_write_no_call h rfl rfl
  | cbNew n tp =>
    rw [cbNew_of_live hl]
    exact ensuresBuffer_raise h _
  | dispNew w ht m tp =>
    rw [dispNew_of_live hl]
    exact ensuresBuffer_raise h _
  | cbSetColor k c =>
    exact ensuresBuffer_of_check h (ensuresBuffer_of_check h
      (ensuresBuffer_commit fun _ => h.writeSlices))
  | cbSetAll n cs bad =>
    exact ensuresBuffer_of_check h (ensuresBuffer_of_check h (ensuresBuffer_of_check h
      (ensuresBuffer_commit fun _ => h.writeSlices)))
  | cbShiftR a l k =>
    rw [exec_cbShiftR]
    exact ensuresBuffer_execShift h .right a l k
  | cbShiftL a l k =>
    rw [exec_cbShiftL]
    exact ensuresBuffer_execShift h .left a l k
  | cbSend wait => exact ensuresBuffer_of_check h (ensuresBuffer_sendAndFinish h wait)
  | cbTurnOff wait => exact ensuresBuffer_cbTurnOff h wait
  | cbRelease =>
    intro t ht
    obtain ⟨pl, q, d, rfl⟩ := cbRelease_frame hl ht
    exact h
  | dispRender => exact ensuresBuffer_dispRender h
  | dispShiftR k wait => exact ensuresBuffer_dispShiftR h k wait

/-- A command from EMPTY or RELEASED keeps LIFE and BUF, or constructs a buffer. -/
theorem exec_of_not_live {i : Instr} {s t : State} (hl : s.life.live = false) (h : exec i s = .next t) :
    (t.life = s.life ∧ t.buf = s.buf) ∨
      ((∃ n p, i = .cbNew n p) ∨ ∃ w h m p, i = .dispNew w h m p) ∧ BufferInv t := by
  have hn : ¬ s.life.live = true := by rw [hl]; decide
  cases exec_effect h with
  | response | cell => exact .inl ⟨rfl, rfl⟩
  | buffer n tp hi =>
    exact .inr ⟨.inl ⟨n, tp, hi⟩, bufferInv_withPix (s.setSession n tp) _ (List.length_replicate ..)⟩
  | display w ht m tp hi =>
    exact .inr ⟨.inr ⟨w, ht, m, tp, hi⟩,
      bufferInv_withPix ((s.setGeometry w ht m).setSession _ tp) _ (List.length_replicate ..)⟩
  | arrays _ _ _ _ _ h1 | send _ _ _ _ _ _ h1 | release _ h1 => exact absurd h1 hn

/-- The clauses of the invariant on BUF and PIX after a command (10_state.md R32). -/
theorem exec_buffer {i : Instr} {s t : State} (hw : s.buf.wf) (hb : s.life.live = true → BufferInv s)
    (h : exec i s = .next t) : t.buf.wf ∧ (t.life.live = true → BufferInv t) := by
  cases hl : s.life.live with
  | true =>
    have ht := ensuresBuffer_exec (hb hl) hl i t h
    exact ⟨ht.wf, fun _ => ht⟩
  | false =>
    obtain ⟨hlife, hbuf⟩ | ⟨-, ht⟩ := exec_of_not_live hl h
    · rw [hlife, hbuf, hl]
      exact ⟨hw, nofun⟩
    · exact ⟨ht.wf, fun _ => ht⟩

/-! ### The grid -/

/-- DISP_SETPIXEL writes a cell that exists (43_display.md R168). -/
theorem dispSetPixel_grid_length {x y : BitVec 8} {c : Color} {s t : State}
    (h : exec (.dispSetPixel x y c) s = .next t) : t.grid.length = s.grid.length := by
  simp only [exec, execDispSetPixel] at h
  split at h
  · cases h; rfl
  · split at h
    · cases h; rfl
    · obtain ⟨u, hu, rfl⟩ := commit_next h
      unfold State.writeGrid at hu
      split at hu
      · cases hu
        exact List.length_set ..
      · cases hu

/-- The pixel count of a Display of 8-bit size is not cut off (10_state.md R24). -/
theorem displaySize_toNat (w h : BitVec 8) :
    (BitVec.ofNat 16 (w.toNat * h.toNat)).toNat = w.toNat * h.toNat := by
  have hle : w.toNat * h.toNat ≤ 255 * 255 := Nat.mul_le_mul (byte_le w) (byte_le h)
  rw [BitVec.toNat_ofNat, Nat.mod_eq_of_lt (by omega)]

theorem GridInv.of_sameRegisters {s t : State} (h : GridInv s) (hr : SameRegisters s t) : GridInv t := by
  obtain ⟨hn, -, hw, hh, -⟩ := hr.session
  unfold GridInv
  rw [hn, hw, hh, hr.grid]
  exact h

/-- The clause of the invariant on GRID after a command (10_state.md R32). -/
theorem exec_gridInv {i : Instr} {s t : State} (hg : s.life = .dispLive → GridInv s)
    (h : exec i s = .next t) (ht : t.life = .dispLive) : GridInv t := by
  cases exec_effect h with
  | response | arrays => exact hg ht
  | cell x y c g hi =>
    subst hi
    obtain ⟨hn, hlen⟩ := hg ht
    exact ⟨hn, (dispSetPixel_grid_length h).trans hlen⟩
  | buffer => cases ht
  | display w k m tp =>
    exact ⟨displaySize_toNat w k, (List.length_replicate ..).trans (displaySize_toNat w k)⟩
  | send u _ _ hu _ _ _ e =>
    obtain ⟨hr, hl⟩ := send_sameRegisters hu e
    exact (hg (hl.symm.trans ht)).of_sameRegisters hr
  | release hi hv =>
    subst hi
    obtain ⟨hr, hl⟩ := cbRelease_sameRegisters hv h
    rw [hl] at ht
    split at ht
    · cases ht
    · exact (hg ht).of_sameRegisters hr

/-! ### The transmissions in flight -/

/-- Marking the transmissions in flight keeps their serial numbers. -/
theorem TxqInv.map {s t : State} (h : TxqInv s) {f : Transmission → Transmission}
    (hf : ∀ x, (f x).serial = x.serial) (hq : t.txq = s.txq.map f) (hs : t.txSerial = s.txSerial) :
    TxqInv t := by
  obtain ⟨hp, hb⟩ := h
  unfold TxqInv
  rw [hq, hs, List.pairwise_map, List.forall_mem_map]
  simp only [hf]
  exact ⟨hp, hb⟩

theorem TxqInv.complete {s : State} (h : TxqInv s) (k : Nat) : TxqInv (s.complete k) := by
  obtain ⟨hp, hb⟩ := h
  unfold State.complete
  split
  · exact ⟨hp, hb⟩
  · exact ⟨hp.filter _, fun x hx => hb x (List.mem_of_mem_filter hx)⟩

theorem TxqInv.completeAll {s : State} (h : TxqInv s) (ks : List Nat) : TxqInv (s.completeAll ks) := by
  induction ks generalizing s with
  | nil => exact h
  | cons k ks ih => exact ih (h.complete k)

theorem TxqInv.answer {s : State} (h : TxqInv s) (own : List Nat) : TxqInv (s.answer own) := by
  unfold State.answer
  split
  · exact h.completeAll own
  · next ks rest _ =>
    have hr : TxqInv (s.setPlan rest) := h
    exact (hr.completeAll ks).completeAll own
  · exact h

/-- A new transmission gets the next serial number, which is above all given out. -/
theorem TxqInv.startTransmission {s : State} (h : TxqInv s) (b : List Byte) :
    TxqInv (s.startTransmission b) := by
  obtain ⟨hp, hb⟩ := h
  constructor
  · simp only [startTransmission_txq, List.pairwise_append, List.pairwise_map, List.pairwise_singleton,
      List.forall_mem_map, List.mem_singleton, forall_eq, true_and]
    exact ⟨hp, hb⟩
  · simp only [startTransmission_txq, startTransmission_txSerial, List.forall_mem_append,
      List.forall_mem_map, List.forall_mem_singleton]
    exact ⟨fun x hx => Nat.lt_succ_of_lt (hb x hx), Nat.lt_succ_self _⟩

theorem TxqInv.txRelease {s : State} (h : TxqInv s) : TxqInv s.txRelease := by
  have hc : TxqInv (s.cutAll.present .release) :=
    h.map (f := Transmission.cutShort) (fun _ => rfl) rfl rfl
  exact hc.answer []

theorem TxqInv.sendAndFinish {s t : State} (h : TxqInv s) {wait : Bool}
    (e : sendAndFinish s wait = .next t) : TxqInv t := by
  unfold Machine.sendAndFinish State.txSend at e
  split at e
  · cases e
  · next u hu =>
    split at hu
    · cases hu
    · next b _ =>
      cases hu
      have hs : TxqInv ((s.startTransmission b).present (.send wait b)) := h.startTransmission b
      have ha := hs.answer (if wait then [s.txSerial] else [])
      unfold afterCall at e
      split at e <;> cases e <;> exact ha

/-- The clause of the invariant on the transmissions in flight after a command (log 8). -/
theorem exec_txqInv {i : Instr} {s t : State} (hq : TxqInv s) (h : exec i s = .next t) : TxqInv t := by
  cases exec_effect h with
  | response | cell => exact hq
  | buffer | display | arrays => exact hq.map (f := Transmission.touch) (fun _ => rfl) rfl rfl
  | send u _ _ hu _ _ _ e =>
    refine TxqInv.sendAndFinish ?_ e
    obtain ⟨-, rfl⟩ | ⟨-, p, m, rfl⟩ := hu
    · exact hq
    · exact hq.map (f := Transmission.touch) (fun _ => rfl) rfl rfl
  | release => split <;> exact hq.txRelease

/-! ### The invariant -/

/-- Settles O14: nothing is live, nothing is in flight. -/
theorem resetMeetsInvariant : Obligations.ResetMeetsInvariant :=
  ⟨.nil, nofun, nofun, rfl, .nil, nofun⟩

/-- Every command keeps the invariant. -/
theorem Inv.exec {i : Instr} {s t : State} (h : Inv s) (e : exec i s = .next t) : Inv t := by
  obtain ⟨hw, hb, hg, hd, hq⟩ := h
  obtain ⟨hw', hb'⟩ := exec_buffer hw hb e
  have hd' : t.dec.ok = true := by rw [(exec_params_dec e).2, hd]
  exact ⟨hw', hb', exec_gridInv hg e, hd', exec_txqInv hq e⟩

/-- A completion touches the transmissions in flight only. -/
theorem Inv.complete {s : State} (h : Inv s) (k : Nat) : Inv (s.complete k) := by
  obtain ⟨hw, hb, hg, hd, hq⟩ := h
  have hq' := hq.complete k
  obtain ⟨q, d, e⟩ := complete_frame s k
  rw [e] at hq' ⊢
  exact ⟨hw, hb, hg, hd, hq'⟩

/-- A reset leaves no array, and what is in flight is cut. -/
theorem Inv.applyReset {s : State} (h : Inv s) : Inv s.applyReset := by
  obtain ⟨-, -, -, -, hq⟩ := h
  exact ⟨.nil, nofun, nofun, rfl, hq.map (f := Transmission.cutShort) (fun _ => rfl) rfl rfl⟩

theorem Inv.setDec {s : State} (h : Inv s) {d : Dec} (hd : d.ok = true) : Inv (s.setDec d) := by
  obtain ⟨hw, hb, hg, -, hq⟩ := h
  exact ⟨hw, hb, hg, hd, hq⟩

/-- Settles O15. A move of the environment touches no clause but that on the transmissions in flight; a
command keeps each clause. -/
theorem stepKeepsInvariant : Obligations.StepKeepsInvariant := by
  intro s t h e
  have hs : Inv s.begun := h
  cases step_effect e with
  | wait | take | offer | ready | illegal => exact h
  | complete k => exact hs.complete k
  | reset => exact hs.applyReset
  | decoder w ws d _ _ _ hd => exact Inv.setDec (s := s.begun.setCmd ws) h (hd h.dec_ok)
  | command i w ws t _ _ _ _ e => exact (Inv.setDec (s := s.begun.setCmd ws) h rfl).exec e

/-! ### The header -/

/-- The header's bytes in a buffer that meets the invariant (20_memory.md R51). -/
theorem BufferInv.read_header {s : State} (h : BufferInv s) {a : Nat} (ha : a < s.params.headerBytes) :
    s.buf.read a = s.params.header[a]? := by
  rw [((bufferInv_iff s).1 h).1, Memory.read_array, State.image, List.getElem?_append_left ha]

/-- Settles O26: in a live state the buffer begins with HEADER before and after the command, and in the
other states no command but the NEW commands writes BUF. -/
theorem headerIsNeverRewritten : Obligations.HeaderIsNeverRewritten := by
  intro i s t hs hcb hdisp e a ha
  cases hl : s.life.live with
  | true =>
    have hb := hs.arrays.buffer hl
    have hp : t.params = s.params := (exec_params_dec e).1
    rw [hb.read_header ha, (ensuresBuffer_exec hb hl i t e).read_header (by rwa [hp]), hp]
  | false =>
    obtain ⟨-, hbuf⟩ | ⟨⟨n, p, rfl⟩ | ⟨w, ht, m, p, rfl⟩, -⟩ := exec_of_not_live hl e
    · rw [hbuf]
    · exact absurd rfl (hcb n p)
    · exact absurd rfl (hdisp w ht m p)

end Sys2Proof.Machine
end

section
/-! PROOFS. The core cannot see the transmissions in flight (10_state.md R38). A part of the state that the
commands do not see is overwritten with constants by a function `f`; what a command does after `f` agrees with
what it does without. The same form serves for the unspecified registers (10_state.md R36). -/

namespace Sys2Proof.Machine

/-! ### Outcomes under a view -/

/-- An outcome with its next state under a view. -/
def viewed (v : State → State) : Host.Outcome State Fault Refusal → Host.Outcome State Fault Refusal
  | .next t => .next (v t)
  | .fault f => .fault f
  | .refused f => .refused f

theorem sameOutcome_iff {v : State → State} {r r' : Host.Outcome State Fault Refusal} :
    SameOutcome v r r' ↔ viewed v r = viewed v r' := by
  cases r <;> cases r' <;> simp [SameOutcome, viewed]

theorem SameOutcome.refl (v : State → State) (r : Host.Outcome State Fault Refusal) : SameOutcome v r r :=
  sameOutcome_iff.2 rfl

theorem SameOutcome.symm {v : State → State} {r r' : Host.Outcome State Fault Refusal}
    (h : SameOutcome v r r') : SameOutcome v r' r :=
  sameOutcome_iff.2 (sameOutcome_iff.1 h).symm

theorem SameOutcome.trans {v : State → State} {r r' r'' : Host.Outcome State Fault Refusal}
    (h : SameOutcome v r r') (h' : SameOutcome v r' r'') : SameOutcome v r r'' :=
  sameOutcome_iff.2 ((sameOutcome_iff.1 h).trans (sameOutcome_iff.1 h'))

/-- Two states that `f` makes equal have outcomes that agree, if `f` does not change a state's outcome. -/
theorem sameOutcome_of_overwrite {f v : State → State} {i : Instr}
    (h : ∀ s, SameOutcome v (exec i (f s)) (exec i s)) {s s' : State} (e : f s = f s') :
    SameOutcome v (exec i s) (exec i s') :=
  (h s).symm.trans (by rw [e]; exact h s')

/-! ### Functions the CommandBuffer does not see -/

/-- `f` changes nothing that an operation on the arrays reads or writes, and neither it nor what a send or a
release makes of it shows under the view `v`. -/
structure Blind (f v : State → State) : Prop where
  view : ∀ s, v (f s) = v s
  params : ∀ s, (f s).params = s.params
  life : ∀ s, (f s).life = s.life
  n : ∀ s, (f s).n = s.n
  tp : ∀ s, (f s).tp = s.tp
  buf : ∀ s, (f s).buf = s.buf
  pix : ∀ s, (f s).pix = s.pix
  setBuf : ∀ s m, (f s).setBuf m = f (s.setBuf m)
  setPix : ∀ s p, (f s).setPix p = f (s.setPix p)
  touchTx : ∀ s, (f s).touchTx = f s.touchTx
  respond : ∀ s data e, (f s).respond data e = f (s.respond data e)
  send : ∀ s wait, SameOutcome v (sendAndFinish (f s) wait) (sendAndFinish s wait)
  release : ∀ s, SameOutcome v (execCbRelease (f s)) (execCbRelease s)

namespace Blind

variable {f v : State → State} (hf : Blind f v)
include hf

/-! The array operations give what they give without `f`, overwritten by `f`. -/

theorem slice (s : State) (i : Nat) : (f s).slice i = s.slice i := by
  unfold State.slice
  rw [hf.params]

theorem blocks (s : State) (cs : List Color) : (f s).blocks cs = s.blocks cs := by
  unfold State.blocks
  rw [hf.params, hf.tp]

theorem readBuf (s : State) (a n : Nat) : (f s).readBuf a n = s.readBuf a n := by
  unfold State.readBuf
  rw [hf.buf]

theorem writeBuf (s : State) (a : Nat) (u : List Byte) :
    (f s).writeBuf a u = (s.writeBuf a u).map f := by
  unfold State.writeBuf
  rw [hf.buf, hf.setBuf]
  split <;> rfl

theorem writePix (s : State) (a : Nat) (cs : List Color) :
    (f s).writePix a cs = (s.writePix a cs).map f := by
  unfold State.writePix
  rw [hf.pix, hf.setPix]
  split <;> rfl

theorem writeSlices (s : State) (a : Nat) (cs : List Color) :
    (f s).writeSlices a cs = (s.writeSlices a cs).map f := by
  unfold State.writeSlices
  split
  · rfl
  · rw [hf.touchTx, hf.writePix]
    cases s.touchTx.writePix a cs with
    | error => rfl
    | ok t => simp only [Except.map, hf.slice, hf.blocks, hf.writeBuf]

theorem rangeRotate (s : State) (a l k : Nat) (dir : Direction) :
    (f s).rangeRotate a l k dir = (s.rangeRotate a l k dir).map f := by
  unfold State.rangeRotate
  split
  · rfl
  · simp only [hf.touchTx, hf.pix, hf.slice, hf.readBuf, hf.writePix]
    cases s.touchTx.writePix a (rotate dir ((s.touchTx.pix.drop a).take l) k) with
    | error => rfl
    | ok t =>
      cases s.touchTx.readBuf (s.touchTx.slice a) (96 * l) with
      | error => rfl
      | ok b => simp only [Except.map, hf.slice, hf.writeBuf]

theorem rotateRows (s : State) (ops : List ShiftOp) :
    (f s).rotateRows ops = (s.rotateRows ops).map f := by
  induction ops generalizing s with
  | nil => rfl
  | cons op ops ih =>
    unfold State.rotateRows
    rw [hf.rangeRotate]
    cases s.rangeRotate op.start op.length op.steps op.direction with
    | error => rfl
    | ok t => exact ih t

/-! The ends of a command agree. -/

theorem done (s : State) (data : List Word) :
    SameOutcome v (Machine.done (f s) data) (Machine.done s data) := by
  show v ((f s).respond data .ok) = v (s.respond data .ok)
  rw [hf.respond, hf.view]

theorem raise (s : State) (e : Status) : SameOutcome v (Machine.raise (f s) e) (Machine.raise s e) := by
  show v ((f s).respond [] e) = v (s.respond [] e)
  rw [hf.respond, hf.view]

theorem commit (r : Except Fault State) : SameOutcome v (Machine.commit (r.map f)) (Machine.commit r) := by
  cases r with
  | error => rfl
  | ok t => exact hf.done t []

/-- A check that `f` does not see. -/
theorem check {c c' : Prop} [Decidable c] [Decidable c'] (hc : c' ↔ c) (s : State) (e : Status)
    {r r' : Host.Outcome State Fault Refusal} (h : SameOutcome v r' r) :
    SameOutcome v (if c' then Machine.raise (f s) e else r') (if c then Machine.raise s e else r) := by
  by_cases h' : c
  · rw [if_pos h', if_pos (hc.2 h')]
    exact hf.raise s e
  · rw [if_neg h', if_neg (hc.not.2 h')]
    exact h

theorem checkLive (s : State) {r r' : Host.Outcome State Fault Refusal} (h : SameOutcome v r' r) :
    SameOutcome v (if (f s).life.live = false then Machine.raise (f s) .lifecycleError else r')
      (if s.life.live = false then Machine.raise s .lifecycleError else r) :=
  hf.check (by rw [hf.life]) s _ h

/-! The commands that do not read or write the display's part. -/

theorem cbSetColor (index : BitVec 16) (c : Color) (s : State) :
    SameOutcome v (execCbSetColor index c (f s)) (execCbSetColor index c s) := by
  refine hf.checkLive s (hf.check (by rw [hf.n]) s _ ?_)
  rw [State.sliceWrite, hf.writeSlices]
  exact hf.commit _

theorem cbSetAll (count : BitVec 16) (cs : List Color) (bad : Bool) (s : State) :
    SameOutcome v (execCbSetAll count cs bad (f s)) (execCbSetAll count cs bad s) := by
  refine hf.check Iff.rfl s _ (hf.checkLive s (hf.check (by rw [hf.n]) s _ ?_))
  rw [hf.writeSlices]
  exact hf.commit _

theorem execShift (dir : Direction) (start length steps : BitVec 16) (s : State) :
    SameOutcome v (Machine.execShift dir start length steps (f s))
      (Machine.execShift dir start length steps s) := by
  refine hf.checkLive s ?_
  rw [hf.n, hf.rangeRotate]
  split
  · exact hf.raise s _
  · exact hf.commit _

theorem cbTurnOff (wait : Bool) (s : State) :
    SameOutcome v (execCbTurnOff wait (f s)) (execCbTurnOff wait s) := by
  refine hf.checkLive s ?_
  rw [hf.n, hf.writeSlices]
  cases s.writeSlices 0 (List.replicate s.n.toNat Color.black) with
  | error => rfl
  | ok t => exact hf.send t wait

theorem gmIndex (x y width height mode : BitVec 8) (s : State) :
    SameOutcome v (execGmIndex x y width height mode (f s)) (execGmIndex x y width height mode s) := by
  unfold execGmIndex
  split
  · exact hf.raise s _
  · exact hf.check Iff.rfl s _ (hf.done s _)

theorem gmShift (mode rows width : BitVec 8) (steps : BitVec 16) (s : State) :
    SameOutcome v (execGmShift mode rows width steps (f s)) (execGmShift mode rows width steps s) := by
  unfold execGmShift
  split
  · exact hf.raise s _
  · exact hf.done s _

theorem peEncode (c : Color) (tp : TimingProfile) (s : State) :
    SameOutcome v (execPeEncode c tp (f s)) (execPeEncode c tp s) := by
  unfold execPeEncode
  rw [hf.params]
  exact hf.done s _

/-- Every command agrees, where the constructions and the commands of the Display do. -/
theorem exec {s : State}
    (hcb : ∀ n tp, SameOutcome v (execCbNew n tp (f s)) (execCbNew n tp s))
    (hdisp : ∀ w h m tp, SameOutcome v (execDispNew w h m tp (f s)) (execDispNew w h m tp s))
    (hset : ∀ x y c, SameOutcome v (execDispSetPixel x y c (f s)) (execDispSetPixel x y c s))
    (hrender : SameOutcome v (execDispRender (f s)) (execDispRender s))
    (hshift : ∀ k wait, SameOutcome v (execDispShiftR k wait (f s)) (execDispShiftR k wait s))
    (i : Instr) : SameOutcome v (Machine.exec i (f s)) (Machine.exec i s) := by
  cases i with
  | peEncode c tp => exact hf.peEncode c tp s
  | cbNew n tp => exact hcb n tp
  | cbSetColor k c => exact hf.cbSetColor k c s
  | cbSetAll n cs bad => exact hf.cbSetAll n cs bad s
  | cbShiftR a l k =>
    rw [exec_cbShiftR, exec_cbShiftR]
    exact hf.execShift .right a l k s
  | cbShiftL a l k =>
    rw [exec_cbShiftL, exec_cbShiftL]
    exact hf.execShift .left a l k s
  | cbSend wait => exact hf.checkLive s (hf.send s wait)
  | cbTurnOff wait => exact hf.cbTurnOff wait s
  | cbRelease => exact hf.release s
  | gmIndex x y w ht m => exact hf.gmIndex x y w ht m s
  | gmShift m rows w k => exact hf.gmShift m rows w k s
  | dispNew w ht m tp => exact hdisp w ht m tp
  | dispSetPixel x y c => exact hset x y c
  | dispRender => exact hrender
  | dispShiftR k wait => exact hshift k wait

end Blind

/-! ### What is in flight -/

/-- The core with an environment of which it sees no more than whether the next call returns. -/
def State.alone (s : State) : State :=
  { coreView s with txPlan := if s.callReturns then [] else [.never] }

@[simp] theorem alone_callReturns (s : State) : s.alone.callReturns = s.callReturns := by
  cases hc : s.callReturns <;> simp [State.alone, hc] <;> rfl

theorem alone_eq {s s' : State} (h : coreView s = coreView s') (hc : s.callReturns = s'.callReturns) :
    s.alone = s'.alone := by
  unfold State.alone
  rw [h, hc]

/-- The end of a command after its call, under the core's view. -/
theorem afterCall_answer {s : State} (call : TxCall) (hs : s.txCall = some call) (own : List Nat) :
    ∃ t, afterCall (s.answer own) = .next t ∧ coreView t =
      { coreView s with
        txCall := if s.callReturns then none else some call
        rsp := if s.callReturns then s.rsp ++ [statusWord .ok] else s.rsp } := by
  obtain ⟨pl, q, d, e⟩ := answer_frame s own
  rw [e, hs]
  cases s.callReturns
  · exact ⟨_, rfl, rfl⟩
  · exact ⟨_, rfl, by simp [State.respond, coreView]⟩

theorem sendAndFinish_alone (s : State) (wait : Bool) :
    SameOutcome coreView (sendAndFinish s.alone wait) (sendAndFinish s wait) := by
  unfold sendAndFinish State.txSend
  rw [show s.alone.readBuf 0 s.alone.bufLength = s.readBuf 0 s.bufLength from rfl]
  cases s.readBuf 0 s.bufLength with
  | error => rfl
  | ok b =>
    obtain ⟨t, ht, e⟩ := afterCall_answer (s := (s.startTransmission b).present (.send wait b)) _ rfl
      (if wait then [s.txSerial] else [])
    obtain ⟨t', ht', e'⟩ :=
      afterCall_answer (s := (s.alone.startTransmission b).present (.send wait b)) _ rfl
        (if wait then [s.alone.txSerial] else [])
    have hc : ((s.alone.startTransmission b).present (.send wait b)).callReturns =
        ((s.startTransmission b).present (.send wait b)).callReturns := alone_callReturns s
    simp only [ht, ht']
    show coreView t' = coreView t
    rw [e, e', hc]
    rfl

theorem cbRelease_alone (s : State) :
    SameOutcome coreView (execCbRelease s.alone) (execCbRelease s) := by
  cases hl : s.life.live with
  | true =>
    obtain ⟨t, ht⟩ := givesNext_cbRelease s
    obtain ⟨t', ht'⟩ := givesNext_cbRelease s.alone
    obtain ⟨pl, q, d, e⟩ := cbRelease_frame hl ht
    obtain ⟨pl', q', d', e'⟩ := cbRelease_frame (s := s.alone) hl ht'
    rw [ht, ht', e, e', alone_callReturns]
    rfl
  | false =>
    unfold execCbRelease
    rw [show s.alone.life = s.life from rfl]
    cases hs : s.life with
    | empty | released => rfl
    | cbLive | dispLive => rw [hs] at hl; cases hl

theorem blind_alone : Blind State.alone coreView where
  view _ := rfl
  params _ := rfl
  life _ := rfl
  n _ := rfl
  tp _ := rfl
  buf _ := rfl
  pix _ := rfl
  setBuf _ _ := rfl
  setPix _ _ := rfl
  touchTx _ := rfl
  respond _ _ _ := rfl
  send := sendAndFinish_alone
  release := cbRelease_alone

theorem construct_alone (s : State) (n : BitVec 16) (tp : TimingProfile) :
    s.alone.construct n tp = (s.construct n tp).alone := by
  rw [construct_eq, construct_eq]
  rfl

theorem cbNew_alone (n : BitVec 16) (tp : TimingProfile) (s : State) :
    SameOutcome coreView (execCbNew n tp s.alone) (execCbNew n tp s) := by
  unfold execCbNew
  rw [construct_alone, show s.alone.life = s.life from rfl]
  cases s.life <;> rfl

theorem dispNew_alone (w h m : BitVec 8) (tp : TimingProfile) (s : State) :
    SameOutcome coreView (execDispNew w h m tp s.alone) (execDispNew w h m tp s) := by
  unfold execDispNew
  dsimp only
  rw [show s.alone.setGeometry w h m = (s.setGeometry w h m).alone from rfl, construct_alone,
    show s.alone.life = s.life from rfl]
  cases s.life <;> rfl

theorem dispSetPixel_alone (x y : BitVec 8) (c : Color) (s : State) :
    SameOutcome coreView (execDispSetPixel x y c s.alone) (execDispSetPixel x y c s) := by
  refine blind_alone.check Iff.rfl s _ (blind_alone.check Iff.rfl s _ ?_)
  have hw : s.alone.writeGrid (x.toNat + y.toNat * s.alone.w.toNat) c =
      (s.writeGrid (x.toNat + y.toNat * s.w.toNat) c).map State.alone := by
    unfold State.writeGrid
    rw [show s.alone.grid = s.grid from rfl, show s.alone.w = s.w from rfl]
    split <;> rfl
  rw [hw]
  exact blind_alone.commit _

theorem dispRender_alone (s : State) :
    SameOutcome coreView (execDispRender s.alone) (execDispRender s) := by
  refine blind_alone.check Iff.rfl s _ ?_
  rw [show s.alone.mode = s.mode from rfl]
  split
  · exact blind_alone.raise s _
  · next m _ =>
    rw [show s.alone.permuteGrid m = s.permuteGrid m from rfl]
    split
    · rfl
    · next p _ =>
      rw [blind_alone.writeSlices]
      cases s.writeSlices 0 p with
      | error => rfl
      | ok t => exact blind_alone.done t _

theorem dispShiftR_alone (steps : BitVec 16) (wait : Bool) (s : State) :
    SameOutcome coreView (execDispShiftR steps wait s.alone) (execDispShiftR steps wait s) := by
  refine blind_alone.check Iff.rfl s _ ?_
  rw [show s.alone.mode = s.mode from rfl]
  split
  · exact blind_alone.raise s _
  · next m _ =>
    refine blind_alone.check Iff.rfl s _ ?_
    rw [show s.alone.h = s.h from rfl, show s.alone.w = s.w from rfl, blind_alone.rotateRows]
    cases s.rotateRows (toStripShift m s.h.toNat s.w.toNat steps.toNat) with
    | error => rfl
    | ok t => exact blind_alone.send t wait

/-- Settles O58: overwriting the environment, but for whether the next call returns, changes nothing in
the core's part of an outcome. -/
theorem coreCannotSeeTheTransmissions : Obligations.CoreCannotSeeTheTransmissions :=
  fun i _ _ h hc => sameOutcome_of_overwrite (f := State.alone)
    (fun s => blind_alone.exec (fun n tp => cbNew_alone n tp s) (fun w h m tp => dispNew_alone w h m tp s)
      (fun x y c => dispSetPixel_alone x y c s) (dispRender_alone s)
      (fun k wait => dispShiftR_alone k wait s) i)
    (alone_eq h hc)

end Sys2Proof.Machine
end

section
/-! PROOFS. No command reads an unspecified value (10_state.md R36; 93_implementation_defined.md U15). In
DISP_LIVE every register holds a specified value. In CB_LIVE no command sees the registers and the grid of the
Display. In EMPTY and RELEASED a command that constructs nothing responds alike in all states with the same
LIFE, and a construction writes every register and array that is readable after it. -/

namespace Sys2Proof.Machine

/-! ### CB_LIVE: the Display's registers and grid -/

/-- The state with W, H, MODE and GRID overwritten. -/
def State.hideDisplay (s : State) : State := { s with w := 0, h := 0, mode := 0, grid := [] }

theorem complete_hideDisplay (s : State) (k : Nat) :
    s.hideDisplay.complete k = (s.complete k).hideDisplay := by
  unfold State.complete
  rw [show s.hideDisplay.txq = s.txq from rfl]
  split <;> rfl

theorem completeAll_hideDisplay (s : State) (ks : List Nat) :
    s.hideDisplay.completeAll ks = (s.completeAll ks).hideDisplay := by
  induction ks generalizing s with
  | nil => rfl
  | cons k ks ih => rw [State.completeAll, complete_hideDisplay, ih, State.completeAll]

theorem answer_hideDisplay (s : State) (own : List Nat) :
    s.hideDisplay.answer own = (s.answer own).hideDisplay := by
  unfold State.answer
  rw [show s.hideDisplay.txPlan = s.txPlan from rfl]
  split
  · rw [completeAll_hideDisplay]
    rfl
  · next ks rest _ =>
    rw [show s.hideDisplay.setPlan rest = (s.setPlan rest).hideDisplay from rfl, completeAll_hideDisplay,
      completeAll_hideDisplay]
    rfl
  · rfl

theorem afterCall_hideDisplay (s : State) :
    SameOutcome State.hideDisplay (afterCall s.hideDisplay) (afterCall s) := by
  unfold afterCall
  rw [show s.hideDisplay.txCall = s.txCall from rfl]
  split <;> rfl

theorem sendAndFinish_hideDisplay (s : State) (wait : Bool) :
    SameOutcome State.hideDisplay (sendAndFinish s.hideDisplay wait) (sendAndFinish s wait) := by
  unfold sendAndFinish State.txSend
  rw [show s.hideDisplay.readBuf 0 s.hideDisplay.bufLength = s.readBuf 0 s.bufLength from rfl]
  cases s.readBuf 0 s.bufLength with
  | error => rfl
  | ok b =>
    show SameOutcome State.hideDisplay
      (afterCall (((s.startTransmission b).present (.send wait b)).hideDisplay.answer
        (if wait then [s.txSerial] else []))) (afterCall _)
    rw [answer_hideDisplay]
    exact afterCall_hideDisplay _

theorem txRelease_hideDisplay (s : State) : s.hideDisplay.txRelease = s.txRelease.hideDisplay := by
  unfold State.txRelease
  rw [← answer_hideDisplay]
  rfl

theorem cbRelease_hideDisplay (s : State) :
    SameOutcome State.hideDisplay (execCbRelease s.hideDisplay) (execCbRelease s) := by
  unfold execCbRelease
  rw [txRelease_hideDisplay, show s.hideDisplay.life = s.life from rfl,
    show s.txRelease.hideDisplay.txCall = s.txRelease.txCall from rfl]
  cases s.life with
  | empty | released => rfl
  | cbLive | dispLive => cases s.txRelease.txCall <;> rfl

theorem blind_hideDisplay : Blind State.hideDisplay State.hideDisplay where
  view _ := rfl
  params _ := rfl
  life _ := rfl
  n _ := rfl
  tp _ := rfl
  buf _ := rfl
  pix _ := rfl
  setBuf _ _ := rfl
  setPix _ _ := rfl
  touchTx _ := rfl
  respond _ _ _ := rfl
  send := sendAndFinish_hideDisplay
  release := cbRelease_hideDisplay

/-- In CB_LIVE the constructions and the commands of the Display report LifecycleError, and no other command
sees the Display's part. -/
theorem exec_hideDisplay {s : State} (hl : s.life = .cbLive) (i : Instr) :
    SameOutcome State.hideDisplay (exec i s.hideDisplay) (exec i s) := by
  have hl' : s.hideDisplay.life = .cbLive := hl
  have hr := blind_hideDisplay.raise s .lifecycleError
  refine blind_hideDisplay.exec ?_ ?_ ?_ ?_ ?_ i
  · intro n tp
    simpa only [execCbNew, hl, hl'] using hr
  · intro w h m tp
    simpa only [execDispNew, hl, hl'] using hr
  · intro x y c
    simpa [execDispSetPixel, hl, hl'] using hr
  · simpa [execDispRender, hl, hl'] using hr
  · intro k wait
    simpa [execDispShiftR, hl, hl'] using hr

/-- Outside DISP_LIVE the Display's part is not readable. -/
theorem readableView_hideDisplay {s : State} (h : s.life ≠ .dispLive) :
    readableView s.hideDisplay = readableView s := by
  unfold readableView
  rw [show s.hideDisplay.life = s.life from rfl]
  cases hl : s.life with
  | empty | released | cbLive => rfl
  | dispLive => exact absurd hl h

theorem SameOutcome.readable {r r' : Host.Outcome State Fault Refusal}
    (h : SameOutcome State.hideDisplay r' r) (hr : ∀ t, r = .next t → t.life ≠ .dispLive) :
    SameOutcome readableView r' r := by
  cases r with
  | fault | refused => cases r' <;> exact h
  | next t =>
    cases r' with
    | fault | refused => exact h
    | next t' =>
      have hd := hr t rfl
      have e : t'.hideDisplay = t.hideDisplay := h
      have hl : t'.life = t.life := congrArg (fun u => u.life) e
      show readableView t' = readableView t
      rw [← readableView_hideDisplay hd, ← e, readableView_hideDisplay (by rwa [hl])]

theorem exec_readableView_of_cbLive {s : State} (hl : s.life = .cbLive) (i : Instr) :
    SameOutcome readableView (exec i (readableView s)) (exec i s) := by
  have hv : readableView s = s.hideDisplay := by simp [readableView, State.hideDisplay, hl]
  rw [hv]
  refine (exec_hideDisplay hl i).readable fun t ht => ?_
  obtain h | ⟨-, h, -⟩ | ⟨-, h, -⟩ | ⟨-, -, h⟩ := exec_life ht
  · rw [h, hl]; decide
  · rw [hl] at h; cases h
  · rw [hl] at h; cases h
  · rw [h]; decide

/-! ### EMPTY and RELEASED: no register and no array -/

/-- A response hides nothing and shows nothing. -/
theorem readableView_respond (s : State) (data : List Word) (e : Status) :
    readableView (s.respond data e) = (readableView s).respond data e := by
  unfold readableView
  rw [respond_life]
  cases s.life <;> rfl

theorem readableView_life (s : State) : (readableView s).life = s.life := by
  unfold readableView
  split <;> rfl

theorem readableView_params (s : State) : (readableView s).params = s.params := by
  unfold readableView
  split <;> rfl

theorem readableView_readableView (s : State) : readableView (readableView s) = readableView s := by
  cases hl : s.life <;> simp [readableView, hl]

/-- The command only responds, with words that depend on LIFE and the parameters. -/
def OnlyResponds (i : Instr) (s : State) : Prop :=
  ∃ data e, ∀ s' : State, s'.life = s.life → s'.params = s.params →
    exec i s' = .next (s'.respond data e)

theorem OnlyResponds.readable {i : Instr} {s : State} (h : OnlyResponds i s) :
    SameOutcome readableView (exec i (readableView s)) (exec i s) := by
  obtain ⟨data, e, h⟩ := h
  rw [h _ (readableView_life s) (readableView_params s), h s rfl rfl]
  show readableView _ = readableView _
  rw [readableView_respond, readableView_respond, readableView_readableView]

theorem onlyResponds_of_lifecycleError {i : Instr} {s : State}
    (h : ∀ s' : State, s'.life = s.life → exec i s' = raise s' .lifecycleError) : OnlyResponds i s :=
  ⟨[], .lifecycleError, fun s' hl _ => h s' hl⟩

/-- In EMPTY and RELEASED a command only responds, a construction in EMPTY excepted. -/
theorem onlyResponds_of_not_live {i : Instr} {s : State} (hl : s.life.live = false)
    (hcb : s.life = .empty → ∀ n tp, i ≠ .cbNew n tp)
    (hdisp : s.life = .empty → ∀ w h m tp, i ≠ .dispNew w h m tp) : OnlyResponds i s := by
  have hd : s.life ≠ .dispLive := by intro h; rw [h] at hl; cases hl
  cases i with
  | cbNew n tp =>
    refine onlyResponds_of_lifecycleError fun s' h => ?_
    cases hs : s.life with
    | empty => exact absurd rfl (hcb hs n tp)
    | released => simp only [exec, execCbNew, h, hs]
    | cbLive | dispLive => rw [hs] at hl; cases hl
  | dispNew w ht m tp =>
    refine onlyResponds_of_lifecycleError fun s' h => ?_
    cases hs : s.life with
    | empty => exact absurd rfl (hdisp hs w ht m tp)
    | released => simp only [exec, execDispNew, h, hs]
    | cbLive | dispLive => rw [hs] at hl; cases hl
  | peEncode c tp =>
    exact ⟨pulseWords (encodeColor s.params c tp), .ok, fun s' _ hp => by rw [← hp]; rfl⟩
  | gmIndex x y w ht m =>
    simp only [OnlyResponds, exec, execGmIndex]
    split
    · exact ⟨[], _, fun _ _ _ => rfl⟩
    · split
      · exact ⟨[], _, fun _ _ _ => rfl⟩
      · exact ⟨_, .ok, fun _ _ _ => rfl⟩
  | gmShift m rows w k =>
    simp only [OnlyResponds, exec, execGmShift]
    split
    · exact ⟨[], _, fun _ _ _ => rfl⟩
    · exact ⟨_, .ok, fun _ _ _ => rfl⟩
  | cbSetAll n cs bad =>
    cases bad with
    | true => exact ⟨[], .illegalCommand, fun _ _ _ => rfl⟩
    | false => exact onlyResponds_of_lifecycleError fun s' h => by simp [exec, execCbSetAll, h, hl]
  | cbSetColor k c => exact onlyResponds_of_lifecycleError fun s' h => by simp [exec, execCbSetColor, h, hl]
  | cbShiftR a l k => exact onlyResponds_of_lifecycleError fun s' h => by simp [exec, execCbShiftR, h, hl]
  | cbShiftL a l k => exact onlyResponds_of_lifecycleError fun s' h => by simp [exec, execCbShiftL, h, hl]
  | cbSend wait => exact onlyResponds_of_lifecycleError fun s' h => by simp [exec, execCbSend, h, hl]
  | cbTurnOff wait => exact onlyResponds_of_lifecycleError fun s' h => by simp [exec, execCbTurnOff, h, hl]
  | cbRelease =>
    cases hs : s.life with
    | empty => exact onlyResponds_of_lifecycleError fun s' h => by simp only [exec, execCbRelease, h, hs]
    | released => exact ⟨[], .ok, fun s' h _ => by simp only [exec, execCbRelease, h, hs]; rfl⟩
    | cbLive | dispLive => rw [hs] at hl; cases hl
  | dispSetPixel x y c =>
    exact onlyResponds_of_lifecycleError fun s' h => by simp [exec, execDispSetPixel, h, hd]
  | dispRender => exact onlyResponds_of_lifecycleError fun s' h => by simp [exec, execDispRender, h, hd]
  | dispShiftR k wait =>
    exact onlyResponds_of_lifecycleError fun s' h => by simp [exec, execDispShiftR, h, hd]

/-- The state with every register and array overwritten. -/
def State.blank (s : State) : State :=
  { s with n := 0, tp := ⟨0, 0, 0, 0⟩, w := 0, h := 0, mode := 0, buf := [], pix := [], grid := [] }

theorem readableView_of_empty {s : State} (hl : s.life = .empty) : readableView s = s.blank := by
  simp [readableView, State.blank, hl]

/-- What the construction of a CommandBuffer leaves of the old registers and arrays is not readable in
CB_LIVE. -/
theorem cbNew_blank {s : State} (hl : s.life = .empty) (n : BitVec 16) (tp : TimingProfile) :
    SameOutcome readableView (exec (.cbNew n tp) s.blank) (exec (.cbNew n tp) s) := by
  have hl' : s.blank.life = .empty := hl
  simp only [exec, execCbNew, hl, hl', construct_eq]
  rfl

/-- The construction of a Display writes every register and array. -/
theorem dispNew_blank {s : State} (hl : s.life = .empty) (w h m : BitVec 8) (tp : TimingProfile) :
    SameOutcome readableView (exec (.dispNew w h m tp) s.blank) (exec (.dispNew w h m tp) s) := by
  have hl' : s.blank.life = .empty := hl
  simp only [exec, execDispNew, hl, hl', construct_eq]
  rfl

theorem exec_readableView_of_empty {s : State} (hl : s.life = .empty) (i : Instr) :
    SameOutcome readableView (exec i (readableView s)) (exec i s) := by
  by_cases hcb : ∃ n tp, i = .cbNew n tp
  · obtain ⟨n, tp, rfl⟩ := hcb
    rw [readableView_of_empty hl]
    exact cbNew_blank hl n tp
  by_cases hdisp : ∃ w h m tp, i = .dispNew w h m tp
  · obtain ⟨w, h, m, tp, rfl⟩ := hdisp
    rw [readableView_of_empty hl]
    exact dispNew_blank hl w h m tp
  · exact (onlyResponds_of_not_live (by rw [hl]; rfl) (fun _ n tp e => hcb ⟨n, tp, e⟩)
      (fun _ w h m tp e => hdisp ⟨w, h, m, tp, e⟩)).readable

theorem exec_readableView_of_released {s : State} (hl : s.life = .released) (i : Instr) :
    SameOutcome readableView (exec i (readableView s)) (exec i s) := by
  have hne : s.life ≠ .empty := by rw [hl]; decide
  exact (onlyResponds_of_not_live (by rw [hl]; rfl) (fun h => absurd h hne)
    (fun h => absurd h hne)).readable

/-- Overwriting what is not readable changes nothing readable in an outcome. -/
theorem exec_readableView (i : Instr) (s : State) :
    SameOutcome readableView (exec i (readableView s)) (exec i s) := by
  cases hl : s.life with
  | empty => exact exec_readableView_of_empty hl i
  | cbLive => exact exec_readableView_of_cbLive hl i
  | dispLive =>
    rw [show readableView s = s by simp [readableView, hl]]
    exact .refl _ _
  | released => exact exec_readableView_of_released hl i

/-- Settles O59, by cases on LIFE. -/
theorem unspecifiedValuesCannotBeRead : Obligations.UnspecifiedValuesCannotBeRead :=
  fun i _ _ h => sameOutcome_of_overwrite (exec_readableView i) h

end Sys2Proof.Machine
end

section
/-! PROOFS. The transmissions in flight (10_state.md R38; 20_memory.md R61; 60_exceptions.md R201 to R203). One
rule per act of the transmitter, then what a command makes of them: a careful one loses nothing, and a send
with nothing else in flight has its bytes delivered or in flight alone. -/

namespace Sys2Proof.Machine

open Sys2Proof.Claims

/-! ### Completions -/

/-- A serial number names one transmission in flight. -/
theorem TxqInv.eq_of_serial_eq {s : State} (h : TxqInv s) {x y : Transmission} (hx : x ∈ s.txq)
    (hy : y ∈ s.txq) (e : x.serial = y.serial) : x = y := by
  obtain ⟨hp, -⟩ := h
  have hd : (s.txq.map Transmission.serial).Nodup :=
    List.pairwise_map.2 (hp.imp fun hlt => Nat.ne_of_lt hlt)
  exact List.inj_on_of_nodup_map hd hx hy e

/-- The completion of a transmission in flight removes it and delivers its bytes (60_exceptions.md R202). -/
theorem complete_of_mem {s : State} (h : TxqInv s) {x : Transmission} (hx : x ∈ s.txq) :
    s.complete x.serial =
      { s with
        txq := s.txq.filter fun u => !(u.serial == x.serial)
        strip := s.strip ++ [⟨x.serial, x.delivered s.params⟩] } := by
  unfold State.complete
  split
  · next hn => exact absurd (List.find?_eq_none.1 hn x hx) (by simp)
  · next y hy =>
    have hs : y.serial = x.serial := by simpa using List.find?_some hy
    rw [h.eq_of_serial_eq (List.mem_of_find?_eq_some hy) hx hs]

theorem complete_of_txq_nil {s : State} (h : s.txq = []) (k : Nat) : s.complete k = s :=
  complete_of_not_mem (by simp [h])

theorem completeAll_of_txq_nil {s : State} (h : s.txq = []) (ks : List Nat) : s.completeAll ks = s := by
  induction ks with
  | nil => rfl
  | cons k ks ih => rw [State.completeAll, complete_of_txq_nil h, ih]

theorem answer_of_txq_nil {s : State} (h : s.txq = []) (own : List Nat) :
    (s.answer own).txq = [] ∧ (s.answer own).strip = s.strip := by
  unfold State.answer
  split
  · rw [completeAll_of_txq_nil h]
    exact ⟨h, rfl⟩
  · next ks rest _ =>
    have hp : (s.setPlan rest).txq = [] := h
    rw [completeAll_of_txq_nil hp, completeAll_of_txq_nil hp]
    exact ⟨h, rfl⟩
  · exact ⟨h, rfl⟩

theorem CleanTxq.complete {s : State} (h : CleanTxq s) (k : Nat) : CleanTxq (s.complete k) := by
  intro x hx
  have hp : (s.complete k).params = s.params := by
    obtain ⟨q, d, e⟩ := complete_frame s k
    rw [e]
  rw [hp]
  exact h x (mem_txq_of_complete hx)

/-! ### A send with nothing else in flight -/

/-- After deliveries `strip`, transmission `k` has delivered the bytes `b`, and nothing is in flight. -/
def Delivered (strip : List Delivery) (k : Nat) (b : List Byte) (t : State) : Prop :=
  t.strip = strip ++ [⟨k, b⟩] ∧ t.txq = []

/-- After deliveries `strip`, transmission `k` of the bytes `b` is in flight alone and has met no hazard. -/
def InFlightAlone (strip : List Delivery) (k : Nat) (b : List Byte) (t : State) : Prop :=
  t.strip = strip ∧ t.txq = [⟨k, b, false, false, false⟩]

/-- What a send with nothing else in flight leads to. -/
def SentAlone (strip : List Delivery) (k : Nat) (b : List Byte) (t : State) : Prop :=
  Delivered strip k b t ∨ InFlightAlone strip k b t

section

variable {strip : List Delivery} {k : Nat} {b : List Byte} {t : State}

theorem Delivered.completeAll (h : Delivered strip k b t) (js : List Nat) :
    Delivered strip k b (t.completeAll js) := by
  rw [completeAll_of_txq_nil h.2]
  exact h

theorem InFlightAlone.complete_own (h : InFlightAlone strip k b t) : Delivered strip k b (t.complete k) := by
  obtain ⟨rfl, hq⟩ := h
  simp [Delivered, State.complete, hq, Transmission.delivered]

theorem InFlightAlone.complete_other (h : InFlightAlone strip k b t) {j : Nat} (hj : j ≠ k) :
    t.complete j = t :=
  complete_of_not_mem (by simpa [h.2] using hj.symm)

theorem SentAlone.complete (h : SentAlone strip k b t) (j : Nat) : SentAlone strip k b (t.complete j) := by
  obtain hd | hf := h
  · exact .inl (hd.completeAll [j])
  · by_cases hj : j = k
    · subst hj
      exact .inl hf.complete_own
    · rw [hf.complete_other hj]
      exact .inr hf

theorem SentAlone.completeAll (h : SentAlone strip k b t) (js : List Nat) :
    SentAlone strip k b (t.completeAll js) := by
  induction js generalizing t with
  | nil => exact h
  | cons j js ih => exact ih (h.complete j)

/-- The completion of a blocking send's own transmission (60_exceptions.md R201). -/
theorem SentAlone.complete_own (h : SentAlone strip k b t) : Delivered strip k b (t.completeAll [k]) := by
  obtain hd | hf := h
  · exact hd.completeAll [k]
  · exact hf.complete_own

theorem SentAlone.answer (h : SentAlone strip k b t) (own : List Nat) :
    SentAlone strip k b (t.answer own) := by
  unfold State.answer
  split
  · exact h.completeAll own
  · next ks rest _ =>
    have hp : SentAlone strip k b (t.setPlan rest) := h
    exact (hp.completeAll ks).completeAll own
  · exact h

/-- A blocking call that returns has delivered its own transmission (60_exceptions.md R201). -/
theorem SentAlone.answer_own (h : SentAlone strip k b t) (hr : t.callReturns = true) :
    Delivered strip k b (t.answer [k]) := by
  unfold State.answer
  split
  · exact h.complete_own
  · next ks rest _ =>
    have hp : SentAlone strip k b (t.setPlan rest) := h
    exact (hp.completeAll ks).complete_own
  · next hpl => simp [State.callReturns, hpl] at hr

end

/-! ### The end of a command by a send -/

/-- The state after a `TxSend(wait)` of the bytes `b` and the transmitter's answer (60_exceptions.md R201). -/
def State.sent (s : State) (wait : Bool) (b : List Byte) : State :=
  ((s.startTransmission b).present (.send wait b)).answer (if wait then [s.txSerial] else [])

/-- A command that ends with a send hands over the whole buffer; its status word is all that it adds to what
the send does. -/
theorem sendAndFinish_sent {s t : State} {wait : Bool} (e : sendAndFinish s wait = .next t) :
    ∃ b, s.readBuf 0 s.bufLength = .ok b ∧ t.txq = (s.sent wait b).txq ∧
      t.strip = (s.sent wait b).strip := by
  unfold sendAndFinish State.txSend at e
  cases hb : s.readBuf 0 s.bufLength with
  | error f => rw [hb] at e; cases e
  | ok b =>
    rw [hb] at e
    refine ⟨b, rfl, ?_⟩
    dsimp only at e
    unfold afterCall done at e
    split at e <;> cases e <;> exact ⟨rfl, rfl⟩

theorem sendAndFinish_sent_image {s t : State} {wait : Bool} (h : BufferInv s)
    (e : sendAndFinish s wait = .next t) :
    t.txq = (s.sent wait s.image).txq ∧ t.strip = (s.sent wait s.image).strip := by
  obtain ⟨b, hb, hq⟩ := sendAndFinish_sent e
  rw [readBuf_all h] at hb
  cases hb
  exact hq

/-- The bytes of a buffer that meets the invariant (20_memory.md R51). -/
theorem BufferInv.bufBytes_eq {s : State} (h : BufferInv s) : bufBytes s = s.image := by
  rw [bufBytes, ((bufferInv_iff s).1 h).1, Memory.cellsAt_map_snd]

/-- A send leaves BUF, its registers and its pixels, so the buffer invariant held before it. -/
theorem bufferInv_of_sendAndFinish {s t : State} {wait : Bool} (e : sendAndFinish s wait = .next t)
    (h : BufferInv t) : BufferInv s ∧ bufBytes t = s.image := by
  obtain ⟨b, pl, q, d, rfl⟩ := sendAndFinish_frame e
  have hs : BufferInv s := h
  exact ⟨hs, hs.bufBytes_eq⟩

/-- The new transmission joins an empty TXQ with no mark (70_reset_and_hazards.md R231). -/
theorem startTransmission_alone {s : State} (hq : s.txq = []) (b : List Byte) :
    InFlightAlone s.strip s.txSerial b (s.startTransmission b) :=
  ⟨rfl, by rw [startTransmission_txq, hq]; rfl⟩

theorem sent_alone {s : State} (hq : s.txq = []) (wait : Bool) (b : List Byte) :
    SentAlone s.strip s.txSerial b (s.sent wait b) := by
  have h : SentAlone s.strip s.txSerial b ((s.startTransmission b).present (.send wait b)) :=
    .inr (startTransmission_alone hq b)
  exact h.answer _

theorem sent_blocking {s : State} (hq : s.txq = []) (hr : s.callReturns = true) (b : List Byte) :
    Delivered s.strip s.txSerial b (s.sent true b) := by
  have h : SentAlone s.strip s.txSerial b ((s.startTransmission b).present (.send true b)) :=
    .inr (startTransmission_alone hq b)
  exact h.answer_own hr

theorem sendAndFinish_alone_or_delivered {s t : State} {wait : Bool} (hq : s.txq = [])
    (e : sendAndFinish s wait = .next t) (h : BufferInv t) :
    SentAlone s.strip s.txSerial (bufBytes t) t := by
  obtain ⟨hs, hb⟩ := bufferInv_of_sendAndFinish e h
  obtain ⟨htq, hst⟩ := sendAndFinish_sent_image hs e
  have ha := sent_alone hq wait s.image
  unfold SentAlone Delivered InFlightAlone at ha ⊢
  rwa [hb, htq, hst]

/-- Settles O40: a blocking call that returns has completed its own transmission, and no other was in
flight. -/
theorem blockingSendDeliversTheBuffer : Obligations.BlockingSendDeliversTheBuffer := by
  intro s t hs hl hq hr h
  have ht := hs.arrays.buffer hl
  have e : sendAndFinish s true = .next t := by simpa [exec, execCbSend, hl] using h
  obtain ⟨htq, hst⟩ := sendAndFinish_sent_image ht e
  obtain ⟨hstrip, hnil⟩ := sent_blocking hq hr s.image
  rw [htq, hst, ht.bufBytes_eq]
  exact ⟨hnil, hstrip⟩

/-! ### A careful command -/

/-- What a command that sends nothing makes of what is in flight, where it meets no hazard: nothing is
delivered, the same transmissions stay, none marked that would deliver other bytes. -/
structure KeepsInFlight (s t : State) : Prop where
  txSerial : t.txSerial = s.txSerial
  strip : t.strip = s.strip
  same : SameInFlight s.txq t.txq
  clean : CleanTxq t

theorem keepsInFlight_of_txq_eq {s t : State} (h : CleanTxq s) (hp : t.params = s.params)
    (hn : t.txSerial = s.txSerial) (hd : t.strip = s.strip) (hq : t.txq = s.txq) : KeepsInFlight s t :=
  ⟨hn, hd, by rw [hq]; rfl, by unfold CleanTxq; rw [hq, hp]; exact h⟩

/-- A write of BUF marks what is in flight, which does no harm where the transmitter copies on send
(20_memory.md R61 (c)). -/
theorem keepsInFlight_of_touch {s t : State} (h : CleanTxq s)
    (hc : s.txq = [] ∨ s.params.txCopiesOnSend = true) (hp : t.params = s.params)
    (hn : t.txSerial = s.txSerial) (hd : t.strip = s.strip)
    (hq : t.txq = s.txq.map Transmission.touch) : KeepsInFlight s t := by
  refine ⟨hn, hd, ?_, ?_⟩
  · rw [hq]
    simp [SameInFlight, Transmission.touch, Function.comp_def]
  · unfold CleanTxq
    rw [hq, hp, List.forall_mem_map]
    intro x hx
    obtain ⟨ho, hcut, -⟩ := h x hx
    obtain hnil | hcopy := hc
    · rw [hnil] at hx
      cases hx
    · exact ⟨ho, hcut, fun _ => hcopy⟩

/-- A release with nothing in flight cuts nothing. -/
theorem keepsInFlight_txRelease {s : State} (hq : s.txq = []) : KeepsInFlight s s.txRelease := by
  have hc : (s.cutAll.present .release).txq = [] := by simp [hq]
  obtain ⟨hnil, hd⟩ := answer_of_txq_nil hc []
  obtain ⟨pl, q, d, e⟩ := txRelease_frame s
  refine ⟨by rw [e], hd, ?_, ?_⟩
  · rw [State.txRelease, hnil, hq]
    rfl
  · intro x hx
    rw [State.txRelease, hnil] at hx
    cases hx

/-- A careful write of BUF meets nothing in flight, or a transmitter that copies. -/
theorem Careful.of_writes {i : Instr} {s : State} (h : Careful i s) (hw : writesBytes i s = true) :
    s.txq = [] ∨ s.params.txCopiesOnSend = true :=
  h.imp_right fun hc => hc.2 hw

/-- A careful call meets nothing in flight. -/
theorem Careful.of_calls {i : Instr} {s : State} (h : Careful i s) (hc : callsTransmitter i = true) :
    s.txq = [] :=
  h.resolve_right fun hn => by rw [hn.1] at hc; cases hc

theorem SentAlone.clean {strip : List Delivery} {k : Nat} {b : List Byte} {t : State}
    (h : SentAlone strip k b t) : CleanTxq t := by
  unfold CleanTxq
  obtain ⟨-, hq⟩ | ⟨-, hq⟩ := h <;> rw [hq] <;> simp

/-- A send, after a write of the arrays or without one, from a state with nothing in flight. -/
theorem send_alone {s u t : State} {wait : Bool} {P Q : Prop} (hq : s.txq = [])
    (hu : (P ∧ u = s) ∨ (Q ∧ ∃ p b, u = s.written p b)) (e : sendAndFinish u wait = .next t)
    (ht : BufferInv t) :
    t.txSerial = s.txSerial + 1 ∧ SentAlone s.strip s.txSerial (bufBytes t) t := by
  have hn : t.txSerial = u.txSerial + 1 := by
    obtain ⟨b, pl, q, d, rfl⟩ := sendAndFinish_frame e
    rfl
  obtain ⟨-, rfl⟩ | ⟨-, p, m, rfl⟩ := hu
  · exact ⟨hn, sendAndFinish_alone_or_delivered hq e ht⟩
  · have ha := sendAndFinish_alone_or_delivered (s := s.written p m) (by simp [hq]) e ht
    exact ⟨hn, ha⟩

/-- A careful command sends nothing and keeps what is in flight, or sends with nothing else in flight. -/
theorem exec_of_careful {i : Instr} {s t : State} (hs : Inv s) (hq : CleanTxq s) (hc : Careful i s)
    (h : exec i s = .next t) :
    KeepsInFlight s t ∨
      (t.txSerial = s.txSerial + 1 ∧ SentAlone s.strip s.txSerial (bufBytes t) t) := by
  cases exec_effect h with
  | response | cell => exact .inl (keepsInFlight_of_txq_eq hq rfl rfl rfl rfl)
  | buffer n tp hi =>
    subst hi
    exact .inl (keepsInFlight_of_touch hq (hc.of_writes rfl) rfl rfl rfl rfl)
  | display w ht m tp hi =>
    subst hi
    exact .inl (keepsInFlight_of_touch hq (hc.of_writes rfl) rfl rfl rfl rfl)
  | arrays p b data hw => exact .inl (keepsInFlight_of_touch hq (hc.of_writes hw) rfl rfl rfl rfl)
  | send u _ wait hu hcall _ hl e =>
    have htl : t.life.live = true := by rw [(send_sameRegisters hu e).2, hl]
    exact .inr (send_alone (hc.of_calls hcall) hu e ((hs.exec h).arrays.buffer htl))
  | release hi =>
    subst hi
    have hk := keepsInFlight_txRelease (hc.of_calls rfl)
    split
    · exact .inl ⟨hk.txSerial, hk.strip, hk.same, hk.clean⟩
    · exact .inl hk

/-- The completion of a transmission that has met no hazard delivers the bytes handed over. -/
theorem complete_of_clean {s : State} (hi : TxqInv s) (h : CleanTxq s) {x : Transmission}
    (hx : x ∈ s.txq) :
    ∃ q, (∀ y, y ∈ q ↔ y ∈ s.txq ∧ y.serial ≠ x.serial) ∧
      s.complete x.serial = { s with txq := q, strip := s.strip ++ [⟨x.serial, x.bytes⟩] } := by
  refine ⟨_, fun y => ?_, (complete_of_mem hi hx).trans (by rw [delivered_of_clean h hx])⟩
  simp

/-- Settles O54. The cases of a command are those of `exec_of_careful`; a completion is of one transmission,
since the serial numbers are distinct. -/
theorem carefulHostGetsWhatItSent : Obligations.CarefulHostGetsWhatItSent := by
  refine ⟨fun i s t hs hq hc h => ?_, fun s k hs hq => ⟨hq.complete k, ?_, complete_of_not_mem⟩⟩
  · obtain hk | ⟨hn, ha⟩ := exec_of_careful hs hq hc h
    · exact ⟨hk.clean, fun _ => ⟨hk.strip, hk.same⟩, fun hne => absurd hk.txSerial hne⟩
    · refine ⟨ha.clean, fun he => by omega, fun _ => ?_⟩
      obtain hd | ⟨hstrip, hone⟩ := ha
      · exact .inl hd
      · exact .inr ⟨hstrip, by rw [hone]; rfl⟩
  · rintro x hx rfl
    obtain ⟨-, -, -, -, htq⟩ := hs
    exact complete_of_clean htq hq hx

end Sys2Proof.Machine
end

section
/-! PROOFS. The block form of `SliceWrite` is the loop of the spec (20_memory.md R55). -/

namespace Sys2Proof.Machine

open Sys2Proof.Claims

/-- Replacing a range and then the range after it. -/
theorem splice_append {α : Type} (xs : List α) (a : Nat) (ys zs : List α) (h : a + ys.length ≤ xs.length) :
    splice (splice xs a ys) (a + ys.length) zs = splice xs a (ys ++ zs) := by
  have hl : (xs.take a ++ ys).length = a + ys.length := by simp; omega
  unfold splice
  rw [List.take_left' hl, ← List.drop_drop, List.drop_left' hl, List.drop_drop, List.length_append,
    List.append_assoc (xs.take a), Nat.add_assoc]

/-- A single `SliceWrite` and then a write from the next pixel on, in the form of `writeSlices_eq`. -/
theorem withPix_splice_cons {s : State} {start : Nat} (c : Color) (cs : List Color)
    (hb : start + 1 ≤ s.pix.length) :
    (s.withPix (splice s.pix start [c])).withPix (splice (splice s.pix start [c]) (start + 1) cs) =
      s.withPix (splice s.pix start (c :: cs)) := by
  have hc := splice_append s.pix start [c] cs hb
  rw [withPix_withPix]
  exact congrArg s.withPix hc

/-- Settles O53, by induction on the colours: the marks a further write sets are there already. -/
theorem sliceWritesAreTheLoop : Obligations.SliceWritesAreTheLoop := by
  intro s start cs h hb
  induction cs generalizing s start with
  | nil => rfl
  | cons c cs ih =>
    have hp := h.pix_length
    rw [List.length_cons] at hb
    have h1 : s.sliceWrite start c = .ok (s.withPix (splice s.pix start [c])) :=
      writeSlices_eq h (by rw [List.length_singleton]; omega)
    have hi : BufferInv (s.withPix (splice s.pix start [c])) := h.writeSlices h1
    have hn : start + 1 + cs.length ≤ s.n.toNat := by omega
    have hl : s.writeSlices start (c :: cs) = .ok (s.withPix (splice s.pix start (c :: cs))) :=
      writeSlices_eq h hb
    rw [sliceLoop, h1, hl]
    dsimp only
    rw [← ih _ _ hi hn, writeSlices_eq hi hn]
    split
    · next he => rw [he]
    · rw [withPix_pix, withPix_splice_cons c cs (by omega)]

end Sys2Proof.Machine
end

section
/-! PROOFS. Which error a command reports (60_exceptions.md R186, R191, R195): `expectedError` follows the checks
of each command one by one. -/

namespace Sys2Proof.Machine

/-! ### Outcomes that are no error -/

theorem statusWord_ne_ok {e : Status} (he : e ≠ .ok) : statusWord e ≠ statusWord .ok := by
  cases e with
  | ok => exact absurd rfl he
  | _ => decide

/-- The outcome is not that of an error raised in `s`. -/
def NoError (s : State) (r : Host.Outcome State Fault Refusal) : Prop :=
  ∀ e, e ≠ .ok → r ≠ raise s e

theorem noError_fault (s : State) (f : Fault) : NoError s (.fault f) := by
  rintro e - ⟨⟩

/-- The last response word of a command that ends well is the status OK. -/
theorem noError_done (s u : State) (data : List Word) : NoError s (done u data) := by
  intro e he h
  simp only [done, raise, Host.Outcome.next.injEq] at h
  have hr := congrArg (fun t : State => t.rsp.getLast?) h
  simp only [respond_rsp, List.getLast?_concat, Option.some.injEq] at hr
  exact statusWord_ne_ok he hr.symm

theorem noError_commit (s : State) (r : Except Fault State) : NoError s (commit r) := by
  cases r with
  | error f => exact noError_fault s f
  | ok u => exact noError_done s u []

/-- A command that makes a call logs it, which no error does (60_exceptions.md R193). -/
theorem noError_of_call {s : State} {r : Host.Outcome State Fault Refusal}
    (h : ∀ t, r = .next t → ∃ call, t.txCalls = s.txCalls ++ [call]) : NoError s r := by
  intro e _ hr
  obtain ⟨call, hc⟩ := h _ hr
  simp at hc

theorem noError_send {s u : State} (wait : Bool) (hu : u.txCalls = s.txCalls) :
    NoError s (sendAndFinish u wait) := by
  refine noError_of_call fun t ht => ?_
  obtain ⟨b, pl, q, d, rfl⟩ := sendAndFinish_frame ht
  exact ⟨.send wait b, by rw [← hu]⟩

/-! ### Checks -/

/-- The outcome `r` from `s` is what the tables say: the error they name, or no error. -/
def Reports (s : State) : Option Status → Host.Outcome State Fault Refusal → Prop
  | some e, r => r = raise s e
  | none, r => NoError s r

theorem Reports.check {s : State} {e : Status} {o : Option Status}
    {r : Host.Outcome State Fault Refusal} {c c' : Prop} [Decidable c] [Decidable c'] (hc : c ↔ c')
    (h : Reports s o r) : Reports s (if c' then some e else o) (if c then raise s e else r) := by
  by_cases hn : c
  · rw [if_pos hn, if_pos (hc.1 hn)]
    rfl
  · rw [if_neg hn, if_neg (hc.not.1 hn)]
    exact h

/-- The lifecycle check comes first, malformed payloads excepted (60_exceptions.md R191). -/
theorem Reports.lifecycle {i : Instr} {s : State} {r : Host.Outcome State Fault Refusal} {c : Prop}
    [Decidable c] (hm : payloadMalformed i = false) (hc : c ↔ validIn i s.life = false)
    (h : Reports s (ownError i s) r) :
    Reports s (expectedError i s) (if c then raise s .lifecycleError else r) := by
  rw [expectedError, if_neg (by simp [hm])]
  exact h.check hc

/-- The modes that are not recognized (10_state.md R25). -/
theorem wiringMode_ofByte_eq_none {m : BitVec 8} : WiringMode.ofByte m = none ↔ m.toNat > 3 := by
  unfold WiringMode.ofByte
  generalize m.toNat = k
  match k with
  | 0 | 1 | 2 | 3 => decide
  | n + 4 => exact iff_of_true rfl (Nat.le_add_left 4 n)

theorem Reports.mode {s : State} {o : Option Status} {r : Host.Outcome State Fault Refusal} {m : BitVec 8}
    (hn : WiringMode.ofByte m = none → r = raise s .configurationError)
    (h : ∀ w, WiringMode.ofByte m = some w → Reports s o r) :
    Reports s (if m.toNat > 3 then some .configurationError else o) r := by
  cases hm : WiringMode.ofByte m with
  | none =>
    rw [if_pos (wiringMode_ofByte_eq_none.1 hm)]
    exact hn hm
  | some w =>
    rw [if_neg (by rw [← wiringMode_ofByte_eq_none, hm]; nofun)]
    exact h w hm

theorem live_eq_false_iff {l : Life} : l.live = false ↔ (l == .cbLive || l == .dispLive) = false := by
  cases l <;> decide

theorem ne_dispLive_iff {l : Life} : l ≠ .dispLive ↔ (l == .dispLive) = false := by
  cases l <;> decide

/-! ### The commands -/

theorem reports_cbNew (n : BitVec 16) (tp : TimingProfile) (s : State) :
    Reports s (expectedError (.cbNew n tp) s) (execCbNew n tp s) := by
  unfold expectedError execCbNew
  cases s.life with
  | empty => exact noError_done s _ []
  | cbLive | dispLive | released => rfl

theorem reports_dispNew (w h m : BitVec 8) (tp : TimingProfile) (s : State) :
    Reports s (expectedError (.dispNew w h m tp) s) (execDispNew w h m tp s) := by
  unfold expectedError execDispNew
  cases s.life with
  | empty => exact noError_done s _ []
  | cbLive | dispLive | released => rfl

theorem reports_cbSetColor (k : BitVec 16) (c : Color) (s : State) :
    Reports s (expectedError (.cbSetColor k c) s) (execCbSetColor k c s) :=
  .lifecycle rfl live_eq_false_iff (.check Iff.rfl (noError_commit s _))

theorem reports_cbSetAll (count : BitVec 16) (cs : List Color) (bad : Bool) (s : State) :
    Reports s (expectedError (.cbSetAll count cs bad) s) (execCbSetAll count cs bad s) :=
  .check Iff.rfl (.check live_eq_false_iff
    (.check (BitVec.toNat_inj.not) (noError_commit s _)))

/-- The checks of the two rotations (41_command_buffer.md R127). -/
theorem reports_execShift {i : Instr} {s : State} {start length steps : BitVec 16} (dir : Direction)
    (hm : payloadMalformed i = false) (hv : validIn i s.life = (s.life == .cbLive || s.life == .dispLive))
    (ho : ownError i s = shiftError s.n start length steps) :
    Reports s (expectedError i s) (execShift dir start length steps s) := by
  refine .lifecycle hm (by rw [hv]; exact live_eq_false_iff) ?_
  rw [ho]
  cases shiftError s.n start length steps with
  | some e => rfl
  | none => exact noError_commit s _

theorem reports_cbSend (wait : Bool) (s : State) :
    Reports s (expectedError (.cbSend wait) s) (execCbSend wait s) :=
  .lifecycle rfl live_eq_false_iff (noError_send wait rfl)

theorem reports_cbTurnOff (wait : Bool) (s : State) :
    Reports s (expectedError (.cbTurnOff wait) s) (execCbTurnOff wait s) := by
  refine .lifecycle rfl live_eq_false_iff ?_
  split
  · exact noError_fault s _
  · next u hu =>
    refine noError_send wait ?_
    obtain ⟨-, rfl⟩ | ⟨-, p, b, rfl⟩ := writeSlices_frame hu <;> rfl

theorem reports_cbRelease (s : State) : Reports s (expectedError .cbRelease s) (exec .cbRelease s) := by
  cases hl : s.life with
  | empty => simp only [exec, execCbRelease, expectedError, validIn, hl]; rfl
  | released =>
    simp only [exec, execCbRelease, expectedError, validIn, hl]
    exact noError_done s s []
  | cbLive | dispLive =>
    have hn : expectedError .cbRelease s = none := by simp only [expectedError, validIn, hl]; rfl
    rw [hn]
    refine noError_of_call fun t ht => ?_
    obtain ⟨pl, q, d, rfl⟩ := cbRelease_frame (by rw [hl]; rfl) ht
    exact ⟨.release, rfl⟩

theorem reports_gmIndex (x y w h m : BitVec 8) (s : State) :
    Reports s (expectedError (.gmIndex x y w h m) s) (execGmIndex x y w h m s) := by
  refine Reports.mode (fun hn => by rw [execGmIndex, hn]) fun mode hm => ?_
  rw [execGmIndex, hm]
  exact .check Iff.rfl (noError_done s s _)

theorem reports_gmShift (m rows w : BitVec 8) (k : BitVec 16) (s : State) :
    Reports s (expectedError (.gmShift m rows w k) s) (execGmShift m rows w k s) := by
  refine Reports.mode (fun hn => by rw [execGmShift, hn]) fun mode hm => ?_
  rw [execGmShift, hm]
  exact noError_done s s _

theorem reports_dispSetPixel (x y : BitVec 8) (c : Color) (s : State) :
    Reports s (expectedError (.dispSetPixel x y c) s) (execDispSetPixel x y c s) :=
  .lifecycle rfl ne_dispLive_iff (.check Iff.rfl (noError_commit s _))

theorem reports_dispRender (s : State) :
    Reports s (expectedError .dispRender s) (execDispRender s) := by
  refine .lifecycle rfl ne_dispLive_iff (.mode (fun hn => by rw [hn]) fun mode hm => ?_)
  rw [hm]
  dsimp only
  split
  · exact noError_fault s _
  · split
    · exact noError_fault s _
    · exact noError_done s _ _

theorem reports_dispShiftR (k : BitVec 16) (wait : Bool) (s : State) :
    Reports s (expectedError (.dispShiftR k wait) s) (execDispShiftR k wait s) := by
  refine .lifecycle rfl ne_dispLive_iff (.mode (fun hn => by rw [hn]) fun mode hm => ?_)
  rw [hm]
  refine .check Iff.rfl ?_
  split
  · exact noError_fault s _
  · next u hu =>
    refine noError_send wait ?_
    obtain ⟨-, rfl⟩ | ⟨-, p, b, rfl⟩ := rotateRows_frame hu <;> rfl

/-- A command reports the error of the tables, or none where they name none. -/
theorem reports_exec (i : Instr) (s : State) : Reports s (expectedError i s) (exec i s) := by
  cases i with
  | peEncode c tp => exact noError_done s s _
  | cbNew n tp => exact reports_cbNew n tp s
  | cbSetColor k c => exact reports_cbSetColor k c s
  | cbSetAll n cs bad => exact reports_cbSetAll n cs bad s
  | cbShiftR a l k => exact reports_execShift .right rfl rfl rfl
  | cbShiftL a l k => exact reports_execShift .left rfl rfl rfl
  | cbSend wait => exact reports_cbSend wait s
  | cbTurnOff wait => exact reports_cbTurnOff wait s
  | cbRelease => exact reports_cbRelease s
  | gmIndex x y w h m => exact reports_gmIndex x y w h m s
  | gmShift m rows w k => exact reports_gmShift m rows w k s
  | dispNew w h m tp => exact reports_dispNew w h m tp s
  | dispSetPixel x y c => exact reports_dispSetPixel x y c s
  | dispRender => exact reports_dispRender s
  | dispShiftR k wait => exact reports_dispShiftR k wait s

theorem exec_of_expectedError {i : Instr} {s : State} {e : Status} (h : expectedError i s = some e) :
    exec i s = raise s e := by
  have hr := reports_exec i s
  rwa [h] at hr

theorem noError_exec {i : Instr} {s : State} (h : expectedError i s = none) : NoError s (exec i s) := by
  have hr := reports_exec i s
  rwa [h] at hr

end Sys2Proof.Machine
end

section
/-! PROOFS. The hazards of the transmissions in flight (20_memory.md R61; 70_reset_and_hazards.md R230 to
R232): a command that succeeds leaves in flight what was there with its mark, and what it sends itself. -/

namespace Sys2Proof.Machine

/-! ### What a call leaves in flight -/

theorem mem_txq_of_completeAll {s : State} {ks : List Nat} {x : Transmission}
    (h : x ∈ (s.completeAll ks).txq) : x ∈ s.txq := by
  induction ks generalizing s with
  | nil => exact h
  | cons k ks ih => exact mem_txq_of_complete (ih h)

/-- The transmitter's answer puts nothing into TXQ. -/
theorem mem_txq_of_answer {s : State} {own : List Nat} {x : Transmission}
    (h : x ∈ (s.answer own).txq) : x ∈ s.txq := by
  unfold State.answer at h
  split at h
  · exact mem_txq_of_completeAll h
  · next ks rest _ =>
    have hk : x ∈ ((s.setPlan rest).completeAll ks).txq := mem_txq_of_completeAll h
    exact mem_txq_of_completeAll (s := s.setPlan rest) hk
  · exact h

/-- A release cuts what is in flight (70_reset_and_hazards.md R232). -/
theorem mem_txq_of_txRelease {s : State} {x : Transmission} (h : x ∈ s.txRelease.txq) :
    ∃ y ∈ s.txq, x = y.cutShort := by
  have hx : x ∈ s.txq.map Transmission.cutShort := mem_txq_of_answer h
  obtain ⟨y, hy, rfl⟩ := List.mem_map.1 hx
  exact ⟨y, hy, rfl⟩

/-- A send overlaps what is in flight (70_reset_and_hazards.md R231), and its own transmission has the next
serial number. -/
theorem mem_txq_of_sendAndFinish {s t : State} {wait : Bool} (e : sendAndFinish s wait = .next t)
    {x : Transmission} (hx : x ∈ t.txq) : (∃ y ∈ s.txq, x = y.overlap) ∨ x.serial = s.txSerial := by
  obtain ⟨b, -, hq, -⟩ := sendAndFinish_sent e
  rw [hq] at hx
  have hs : x ∈ ((s.startTransmission b).present (.send wait b)).txq := mem_txq_of_answer hx
  rw [present_txq, startTransmission_txq, List.mem_append, List.mem_map, List.mem_singleton] at hs
  obtain ⟨y, hy, rfl⟩ | rfl := hs
  · exact .inl ⟨y, hy, rfl⟩
  · exact .inr rfl

/-! ### The marks -/

/-- A write of BUF races what is in flight (70_reset_and_hazards.md R230). -/
theorem mutated_of_mem_touch {q : List Transmission} {x : Transmission}
    (h : x ∈ q.map Transmission.touch) : x.mutated = true := by
  obtain ⟨y, -, rfl⟩ := List.mem_map.1 h
  rfl

/-- The marks a command that succeeds has set on an earlier transmission that is still in flight. -/
structure HazardMarks (i : Instr) (s : State) (x : Transmission) : Prop where
  mutated : writesBytes i s = true → x.mutated = true
  overlapped : callsTransmitter i = true → i ≠ .cbRelease → x.overlapped = true
  cut : i = .cbRelease → s.life ≠ .released → x.cut = true

/-- The marks of a command that calls nothing. -/
theorem hazardMarks_of_no_call {i : Instr} {s : State} {x : Transmission}
    (hc : callsTransmitter i = false) (hm : writesBytes i s = true → x.mutated = true) :
    HazardMarks i s x where
  mutated := hm
  overlapped h := by rw [hc] at h; cases h
  cut hi := by subst hi; cases hc

/-- The marks of a send, after a write of the arrays or without one. -/
theorem hazardMarks_of_send {i : Instr} {s u t : State} {wait : Bool}
    (hu : (writesBytes i s = false ∧ u = s) ∨ (writesBytes i s = true ∧ ∃ p b, u = s.written p b))
    (hi : i ≠ .cbRelease) (e : sendAndFinish u wait = .next t) {x : Transmission} (hx : x ∈ t.txq)
    (hs : x.serial < s.txSerial) : HazardMarks i s x := by
  have hn : u.txSerial = s.txSerial := by
    obtain ⟨-, rfl⟩ | ⟨-, p, b, rfl⟩ := hu <;> rfl
  obtain ⟨y, hy, rfl⟩ | hx := mem_txq_of_sendAndFinish e hx
  · refine ⟨fun hw => ?_, fun _ _ => rfl, fun h => absurd h hi⟩
    obtain ⟨hw', -⟩ | ⟨-, p, b, rfl⟩ := hu
    · rw [hw'] at hw
      cases hw
    · have hm : y.mutated = true := mutated_of_mem_touch hy
      exact hm
  · omega

theorem hazardMarks_of_exec {i : Instr} {s t : State} (h : exec i s = .next t)
    (he : expectedError i s = none) {x : Transmission} (hx : x ∈ t.txq)
    (hs : x.serial < s.txSerial) : HazardMarks i s x := by
  cases exec_effect h with
  | response data e hd hb hc =>
    have hok : e = .ok := by
      by_contra hne
      rw [hd hne] at h
      exact noError_exec he e hne h
    refine ⟨fun hw => ?_, fun hcall hi => absurd (hc hok hcall).1 hi, fun hi hr => ?_⟩
    · rw [hb hok] at hw
      cases hw
    · exact absurd (hc hok (by rw [hi]; rfl)).2 hr
  | cell _ _ _ _ hi => subst hi; exact hazardMarks_of_no_call rfl nofun
  | buffer _ _ hi => subst hi; exact hazardMarks_of_no_call rfl fun _ => mutated_of_mem_touch hx
  | display _ _ _ _ hi => subst hi; exact hazardMarks_of_no_call rfl fun _ => mutated_of_mem_touch hx
  | arrays _ _ _ _ hc => exact hazardMarks_of_no_call hc fun _ => mutated_of_mem_touch hx
  | send u _ _ hu _ hi _ e => exact hazardMarks_of_send hu hi e hx hs
  | release hi =>
    subst hi
    have hr : x ∈ s.txRelease.txq := by split at hx <;> exact hx
    obtain ⟨y, -, rfl⟩ := mem_txq_of_txRelease hr
    exact ⟨nofun, fun _ hne => absurd rfl hne, fun _ _ => rfl⟩

/-- A command that writes no byte of BUF and calls nothing leaves TXQ. -/
theorem exec_txq_of_no_write_no_call {i : Instr} {s t : State} (hw : writesBytes i s = false)
    (hc : callsTransmitter i = false) (h : exec i s = .next t) : t.txq = s.txq := by
  cases exec_effect h with
  | response | cell => rfl
  | buffer _ _ hi | display _ _ _ _ hi => subst hi; cases hw
  | arrays _ _ _ hb => rw [hb] at hw; cases hw
  | send _ _ _ _ hs => rw [hs] at hc; cases hc
  | release hi => subst hi; cases hc

/-- Settles O55: the marks where the tables name no error, and three ways to leave TXQ alone. -/
theorem hazardsAreMarked : Obligations.HazardsAreMarked := by
  refine fun i s t _ h => ⟨fun he x hx hs => ?_, ?_⟩
  · have hm := hazardMarks_of_exec h he hx hs
    exact ⟨hm.mutated, hm.overlapped, hm.cut⟩
  · rintro (he | ⟨-, hl⟩ | ⟨hw, hc⟩)
    · obtain ⟨e, he⟩ := Option.ne_none_iff_exists'.1 he
      rw [exec_of_expectedError he] at h
      cases h
      rfl
    · obtain ⟨data, e, rfl⟩ := exec_of_released hl h
      rfl
    · exact exec_txq_of_no_write_no_call hw hc h

end Sys2Proof.Machine
end

section
/-! PROOFS. The encoding (30_encoding.md R81 to R88, R96): the decoder and the encoder are inverse to each
other, and the legality of a header is a test under a mask. A word is the union of its fields, and a field is the
word under a mask, so both directions are facts about masks. -/

namespace Sys2Proof

open Sys2Proof.Claims

/-! ### A word and its fields -/

/-- The word with ones in bits `lo .. lo+len-1` and zeros elsewhere. -/
def fieldMask (lo len : Nat) : Word := place (BitVec.allOnes len) lo

/-- A field put back where it was read is the word under the field's mask. -/
theorem place_field (w : Word) (lo len : Nat) : place (field w lo len) lo = w &&& fieldMask lo len := by
  apply BitVec.eq_of_getLsbD_eq
  intro i hi
  rw [BitVec.getLsbD_and, fieldMask, place_getLsbD, place_getLsbD, field_getLsbD, BitVec.getLsbD_allOnes]
  by_cases hl : lo ≤ i
  · rw [Nat.add_sub_cancel' hl, ← Bool.and_assoc, Bool.and_comm]
  · simp [hl]

theorem and_fieldMask_of_field_eq_zero {w : Word} {lo len : Nat} (h : field w lo len = 0) :
    w &&& fieldMask lo len = 0 := by
  rw [← place_field, h]
  simp [place]

/-- A mask that leaves out a field of zeros only leaves the word as it is. -/
theorem and_eq_self_of_field_eq_zero {w m : Word} {lo len : Nat} (h : field w lo len = 0)
    (hm : m ||| fieldMask lo len = BitVec.allOnes 64) : w &&& m = w :=
  calc w &&& m = (w &&& m) ||| (w &&& fieldMask lo len) := by
        rw [and_fieldMask_of_field_eq_zero h]; exact BitVec.or_zero.symm
    _ = w := by rw [← BitVec.and_or_distrib_left, hm, BitVec.and_allOnes]

theorem colorWord_colorField (w : Word) : colorWord (colorField w) = w &&& fieldMask 0 24 := by
  simp only [colorWord, colorField, place_field, ← BitVec.and_or_distrib_left]
  rfl

theorem profileWord_profileField (w : Word) : profileWord (profileField w) = w &&& fieldMask 0 32 := by
  simp only [profileWord, profileField, place_field, ← BitVec.and_or_distrib_left]
  rfl

theorem blockingBit_blockingField (w : Word) : blockingBit (blockingField w) = field w 0 1 := by
  unfold blockingBit blockingField
  obtain h | h := BitVec.eq_zero_or_eq_one (field w 0 1) <;> rw [h] <;> rfl

theorem blockingBit_eq_one (b : Bool) : (blockingBit b == 1#1) = b := by
  cases b <;> rfl

/-! ### The payload -/

theorem payloadCount_of_cbSetAll {w : Word} (h : headerOpcode w = .ok .cbSetAll) :
    payloadCount w = (field w 40 16).toNat := by
  rw [payloadCount, h]

/-- Only a legal header of `CB_SETALL` asks for payload words (30_encoding.md R86, R88). -/
theorem payloadCount_of_ne {w : Word} (h : headerOpcode w ≠ .ok .cbSetAll) : payloadCount w = 0 := by
  unfold payloadCount
  split
  · next e => exact absurd e h
  · rfl

/-- A payload word whose reserved bits are clear is the word of its colour (30_encoding.md R88). -/
theorem colorWord_colorField_of_clean {w : Word} (h : field w 24 40 = 0) : colorWord (colorField w) = w := by
  rw [colorWord_colorField]
  exact and_eq_self_of_field_eq_zero h rfl

theorem map_colorWord_colorField {ws : List Word} (h : ∀ p ∈ ws, field p 24 40 = 0) :
    (ws.map colorField).map colorWord = ws := by
  rw [List.map_map]
  exact (List.map_congr_left fun p hp => colorWord_colorField_of_clean (h p hp)).trans (List.map_id ws)

/-- A clean payload gives the colours of its words, in order, and no mark (30_encoding.md R96). -/
theorem foldl_acceptPayload_clean {ws : List Word} (h : ∀ p ∈ ws, field p 24 40 = 0) :
    ws.foldl acceptPayload ([], false) = (ws.map colorField, false) := by
  have e := foldl_acceptPayload_colors (ws.map colorField) ([], false)
  rwa [map_colorWord_colorField h, List.nil_append] at e

/-! ### Decoding what was encoded -/

/-- The encoder writes a legal header of the command's opcode (30_encoding.md R84, R85). -/
theorem headerOpcode_encodeHeader (i : Instr) : headerOpcode (encodeHeader i) = .ok i.opcode := by
  cases i with
  | peEncode c t => exact Laws.LegalHeader.peEncode c t
  | cbNew n t => exact Laws.LegalHeader.cbNew n t
  | cbSetColor k c => exact Laws.LegalHeader.cbSetColor k c
  | cbSetAll n cs bad => exact Laws.LegalHeader.cbSetAll n cs bad
  | cbShiftR a l k => exact Laws.LegalHeader.cbShiftR a l k
  | cbShiftL a l k => exact Laws.LegalHeader.cbShiftL a l k
  | cbSend b => exact Laws.LegalHeader.cbSend b
  | cbTurnOff b => exact Laws.LegalHeader.cbTurnOff b
  | cbRelease => exact Laws.LegalHeader.cbRelease
  | gmIndex x y w h m => exact Laws.LegalHeader.gmIndex x y w h m
  | gmShift m rows w k => exact Laws.LegalHeader.gmShift m rows w k
  | dispNew w h m t => exact Laws.LegalHeader.dispNew w h m t
  | dispSetPixel x y c => exact Laws.LegalHeader.dispSetPixel x y c
  | dispRender => exact Laws.LegalHeader.dispRender
  | dispShiftR k b => exact Laws.LegalHeader.dispShiftR k b

/-- The `count` field of an encoded `CB_SETALL` (30_encoding.md R82, format A). -/
theorem field_encodeHeader_cbSetAll (n : BitVec 16) (cs : List Color) (bad : Bool) :
    field (encodeHeader (.cbSetAll n cs bad)) 40 16 = n := by
  simp [encodeHeader, field_place_same, field_place_other]

/-- The encoder writes as many payload words as its header asks for (30_encoding.md R88). -/
theorem encodePayload_length {i : Instr} (h : i.wellFormed = true) :
    (encodePayload i).length = payloadCount (encodeHeader i) := by
  have ho := headerOpcode_encodeHeader i
  cases i with
  | cbSetAll n cs bad =>
    have hle : cs.length ≤ n.toNat := by
      cases bad <;> simp [Instr.wellFormed] at h <;> omega
    rw [payloadCount_of_cbSetAll ho, field_encodeHeader_cbSetAll]
    simp [encodePayload, Nat.add_sub_cancel' hle]
  | _ => exact (payloadCount_of_ne (by rw [ho]; simp [Instr.opcode])).symm

/-- The decoder's colours and mark are those the payload was encoded from: a malformed word stands for each
colour that is missing (30_encoding.md R96). -/
theorem foldl_encodePayload_cbSetAll {n : BitVec 16} {cs : List Color} {bad : Bool}
    (h : (Instr.cbSetAll n cs bad).wellFormed = true) :
    (encodePayload (.cbSetAll n cs bad)).foldl acceptPayload ([], false) = (cs, bad) := by
  rw [encodePayload, List.foldl_append, foldl_acceptPayload_colors, foldl_acceptPayload_malformed]
  cases bad <;> simp [Instr.wellFormed] at h ⊢ <;> omega

/-- Each operand is read back from its field, since the other fields of the header do not meet it. -/
theorem operands_encodeHeader {i : Instr} (h : i.wellFormed = true) :
    operands i.opcode (encodeHeader i) (encodePayload i) = i := by
  cases i with
  | cbSetAll n cs bad =>
    simp only [Instr.opcode, operands, foldl_encodePayload_cbSetAll h, field_encodeHeader_cbSetAll]
  | _ =>
    simp [Instr.opcode, operands, encodeHeader, colorField, colorWord, profileField, profileWord,
      blockingField, blockingBit_eq_one, field_place_same, field_place_other]

/-- Settles O1. -/
theorem decodeOfEncodeIsIdentity : Obligations.DecodeOfEncodeIsIdentity := fun i h =>
  (decode_ok_iff _ _ _).2
    ⟨i.opcode, headerOpcode_encodeHeader i, encodePayload_length h, (operands_encodeHeader h).symm⟩

/-! ### Encoding what was decoded -/

/-- A legal header is the union of its opcode and its operand fields: the fields of its format and the
reserved bits, which are zero, are all its bits (30_encoding.md R82, R87). -/
theorem encodeHeader_operands {w : Word} {op : Opcode} (h : headerOpcode w = .ok op) (payload : List Word) :
    encodeHeader (operands op w payload) = w := by
  obtain ⟨hb, hr⟩ := (headerOpcode_ok_iff w op).1 h
  have ho : place op.byte 56 = w &&& fieldMask 56 8 := by
    rw [← hb]
    exact place_field w 56 8
  cases op
  all_goals
    simp only [operands, encodeHeader, ho, place_field, colorWord_colorField, profileWord_profileField,
      blockingBit_blockingField, ← BitVec.and_or_distrib_left]
    exact and_eq_self_of_field_eq_zero hr rfl

theorem encodePayload_operands {w : Word} {op : Opcode} {payload : List Word}
    (h : headerOpcode w = .ok op) (hl : payload.length = payloadCount w)
    (hp : ∀ p ∈ payload, field p 24 40 = 0) : encodePayload (operands op w payload) = payload := by
  cases op with
  | cbSetAll =>
    rw [payloadCount_of_cbSetAll h] at hl
    simp [operands, encodePayload, foldl_acceptPayload_clean hp, map_colorWord_colorField hp, hl]
  | _ =>
    rw [payloadCount_of_ne (by rw [h]; simp)] at hl
    exact (List.eq_nil_of_length_eq_zero hl).symm

/-- Settles O2. -/
theorem encodeOfDecodeIsIdentity : Obligations.EncodeOfDecodeIsIdentity := by
  intro hd payload i h hp
  obtain ⟨op, ho, hl, rfl⟩ := (decode_ok_iff _ _ _).1 h
  rw [encode, encodeHeader_operands ho, encodePayload_operands ho hl hp]

theorem operands_opcode (op : Opcode) (w : Word) (payload : List Word) :
    (operands op w payload).opcode = op := by
  cases op <;> rfl

/-- Settles O3. -/
theorem decodedCommandIsWellFormed : Obligations.DecodedCommandIsWellFormed := by
  intro hd payload i h
  refine ⟨Machine.decode_wellFormed h, ?_⟩
  obtain ⟨op, ho, -, rfl⟩ := (decode_ok_iff _ _ _).1 h
  rw [operands_opcode]
  exact ((headerOpcode_ok_iff hd op).1 ho).1.symm

/-! ### Legality under the mask -/

/-- The mask of a row of the table covers the opcode and the reserved bits of the row's format. -/
theorem tableMask_eq (op : Opcode) :
    tableMask op = fieldMask 56 8 ||| fieldMask op.rsv.1 op.rsv.2 := by
  cases op <;> rfl

/-- The match value of a row has the opcode in `[63:56]` and zeros elsewhere. -/
theorem tableMatch_eq (op : Opcode) : tableMatch op = place op.byte 56 := by
  cases op <;> rfl

/-- The reserved bits lie below the opcode. -/
theorem rsv_le (op : Opcode) : op.rsv.1 + op.rsv.2 ≤ 56 := by
  cases op <;> decide

/-- Two fields side by side are one word with the first field alone exactly where the second is zero. -/
theorem place_or_place_eq_iff {n len lo : Nat} (a b : BitVec n) (r : BitVec len) {hi : Nat}
    (h : lo + len ≤ hi) (hn : hi + n ≤ 64) :
    place a hi ||| place r lo = place b hi ↔ a = b ∧ r = 0 := by
  constructor
  · intro e
    have ha := congrArg (field · hi n) e
    have hr := congrArg (field · lo len) e
    simp only [field_or] at ha hr
    rw [field_place_same _ _ hn, field_place_other _ _ _ _ (.inl h), field_place_same _ _ hn] at ha
    rw [field_place_other _ _ _ _ (.inr h), field_place_same _ _ (by omega),
      field_place_other _ _ _ _ (.inr h)] at hr
    exact ⟨by simpa using ha, by simpa using hr⟩
  · rintro ⟨rfl, rfl⟩
    simp [place]

/-- Settles O4: under the mask of its row a word is its opcode field beside its reserved field. -/
theorem headerLegalityIsMaskAndMatch : Obligations.HeaderLegalityIsMaskAndMatch := by
  intro w op
  rw [headerOpcode_ok_iff, tableMask_eq, tableMatch_eq, BitVec.and_or_distrib_left, ← place_field,
    ← place_field]
  exact (place_or_place_eq_iff _ _ _ (rsv_le op) (by decide)).symm

end Sys2Proof
end

section
/-! PROOFS. The response of a command (30_encoding.md R98 to R101): the status words as numbers, and for each
command the number and the kind of its data words. -/

namespace Sys2Proof.Machine

/-! ### Status words -/

/-- The status word as a number (30_encoding.md R99). -/
theorem statusWord_toNat (e : Status) : (statusWord e).toNat = 2 ^ 63 + e.code.toNat := by
  have hc := e.code.isLt
  have he : (place e.code 0).toNat = e.code.toNat := by
    rw [place_toNat _ _ (by decide), Nat.pow_zero, Nat.mul_one]
  rw [statusWord, place_or_toNat _ _ _ (by decide) (by omega), he]
  rfl

/-- Settles O6. -/
theorem statusWordsAreNumbered : Obligations.StatusWordsAreNumbered :=
  ⟨statusWord_toNat .ok, statusWord_toNat .indexOutOfRange, statusWord_toNat .sizeMismatch,
    statusWord_toNat .invalidArgument, statusWord_toNat .configurationError,
    statusWord_toNat .lifecycleError, statusWord_toNat .illegalCommand⟩

/-! ### Data words -/

/-- A data word of this kind: bit 63 clear, the kind in `[62:56]` (30_encoding.md R100). -/
def HasKind (kind : BitVec 7) (d : Word) : Prop := field d 63 1 = 0 ∧ field d 56 7 = kind

theorem hasKind_indexWord (k : Nat) : HasKind 0x01 (indexWord k) := by
  simp [HasKind, indexWord, dataWord, field_place_same, field_place_other]

theorem hasKind_colorDataWord (c : Color) : HasKind 0x02 (colorDataWord c) := by
  simp [HasKind, colorDataWord, dataWord, colorWord, field_place_same, field_place_other]

theorem hasKind_pulseWord (b0 b1 b2 b3 : Byte) : HasKind 0x03 (pulseWord b0 b1 b2 b3) := by
  simp [HasKind, pulseWord, dataWord, field_place_same, field_place_other]

theorem hasKind_shiftOpWord (op : ShiftOp) : HasKind 0x04 (shiftOpWord op) := by
  simp [HasKind, shiftOpWord, dataWord, field_place_same, field_place_other]

/-- The `PULSE` word of one bit (40_pulse_encoder.md R113, R114). -/
def bitWord (p : Params) (t : TimingProfile) (bit : Bool) : Word :=
  if bit then pulseWord t.oneHigh p.highMarker t.oneLow p.lowMarker
  else pulseWord t.zeroHigh p.highMarker t.zeroLow p.lowMarker

theorem hasKind_bitWord (p : Params) (t : TimingProfile) (bit : Bool) : HasKind 0x03 (bitWord p t bit) := by
  cases bit <;> exact hasKind_pulseWord _ _ _ _

/-- An encoded colour is answered with one `PULSE` word per bit (40_pulse_encoder.md R114). -/
theorem pulseWords_flatMap_pulse (p : Params) (t : TimingProfile) (bits : List Bool) :
    pulseWords (bits.flatMap (pulse p t)) = bits.map (bitWord p t) := by
  induction bits with
  | nil => rfl
  | cons b bits ih => cases b <;> exact congrArg _ ih

theorem pulseWords_encodeColor (p : Params) (c : Color) (t : TimingProfile) :
    pulseWords (encodeColor p c t) = (bitseq c).map (bitWord p t) :=
  pulseWords_flatMap_pulse p t (bitseq c)

theorem permuteGrid_length {s : State} {m : WiringMode} {q : List Color} (h : s.permuteGrid m = .ok q) :
    q.length = s.w.toNat * s.h.toNat := by
  unfold State.permuteGrid at h
  split at h
  · cases h
    simp [permute]
  · cases h

/-! ### The ports under the array operations -/

/-- Two states offer the same response words and have the same call outstanding. -/
def SamePorts (s t : State) : Prop := t.rsp = s.rsp ∧ t.txCall = s.txCall

/-- A write of the arrays, or none, leaves the ports alone. -/
theorem samePorts_of_frame {s t : State} {P Q : Prop}
    (h : (P ∧ t = s) ∨ (Q ∧ ∃ p b, t = s.written p b)) : SamePorts s t := by
  obtain ⟨-, rfl⟩ | ⟨-, p, b, rfl⟩ := h <;> exact ⟨rfl, rfl⟩

/-! ### The response of an outcome -/

/-- The data words of a command that ends with status OK are as many, and of the kind, as 30_encoding.md R101
says. -/
def DataAsExpected (i : Instr) (s : State) (data : List Word) : Prop :=
  data.length = (expectedData i s).2 ∧ ∀ d ∈ data, HasKind (expectedData i s).1 d

/-- Where the outcome is a next state, a call is outstanding in it and the response port is as it was, or one
response has been added: data words as expected, none with an error, and a status word. -/
def Responds (i : Instr) (s : State) (r : Host.Outcome State Fault Refusal) : Prop :=
  ∀ t, r = .next t →
    (t.txCall ≠ none ∧ t.rsp = s.rsp) ∨
    ∃ (data : List Word) (e : Status), t.txCall = none ∧ t.rsp = s.rsp ++ data ++ [statusWord e] ∧
      (e ≠ .ok → data = []) ∧ (e = .ok → DataAsExpected i s data)

theorem dataAsExpected_nil {i : Instr} {s : State} (h : (expectedData i s).2 = 0) :
    DataAsExpected i s [] :=
  ⟨h.symm, nofun⟩

theorem responds_fault (i : Instr) (s : State) (f : Fault) : Responds i s (.fault f) := nofun

/-- The status word of a send appears where the call has returned, and no data word
(41_command_buffer.md R132). -/
theorem responds_send {i : Instr} {s u : State} {wait : Bool} (hu : SamePorts s u)
    (hd : (expectedData i s).2 = 0) : Responds i s (sendAndFinish u wait) := by
  intro t h
  obtain ⟨b, pl, q, d, rfl⟩ := sendAndFinish_frame h
  obtain ⟨hr, -⟩ := hu
  cases u.callReturns with
  | false => exact .inl ⟨nofun, hr⟩
  | true =>
    exact .inr ⟨[], .ok, rfl, by simp [hr], fun _ => rfl, fun _ => dataAsExpected_nil hd⟩

section
variable {i : Instr} {s u : State} (hs : s.txCall = none)
include hs

theorem responds_raise {e : Status} (he : e ≠ .ok) : Responds i s (raise s e) := by
  rintro _ ⟨⟩
  exact .inr ⟨[], e, hs, rfl, fun _ => rfl, fun h => absurd h he⟩

/-- A check that fails raises its error, so a checked command responds if it does so where the check
passes. -/
theorem responds_check {c : Prop} [Decidable c] {e : Status} {r : Host.Outcome State Fault Refusal}
    (h : ¬ c → Responds i s r) (he : e ≠ .ok := by decide) :
    Responds i s (if c then raise s e else r) := by
  split
  · exact responds_raise hs he
  · next hc => exact h hc

theorem responds_done {data : List Word} (hu : SamePorts s u) (hd : DataAsExpected i s data) :
    Responds i s (done u data) := by
  obtain ⟨hr, hc⟩ := hu
  rintro _ ⟨⟩
  exact .inr ⟨data, .ok, hc.trans hs, by rw [respond_rsp, hr], fun h => absurd rfl h, fun _ => hd⟩

theorem responds_commit {r : Except Fault State} (hr : ∀ u, r = .ok u → SamePorts s u)
    (hd : (expectedData i s).2 = 0) : Responds i s (commit r) := by
  cases r with
  | error f => exact responds_fault i s f
  | ok u => exact responds_done hs (hr u rfl) (dataAsExpected_nil hd)

/-! ### The commands -/

theorem responds_peEncode (c : Color) (tp : TimingProfile) :
    Responds (.peEncode c tp) s (execPeEncode c tp s) := by
  refine responds_done hs ⟨rfl, rfl⟩ ?_
  rw [pulseWords_encodeColor]
  refine ⟨by simp [expectedData], fun d hd => ?_⟩
  obtain ⟨b, -, rfl⟩ := List.mem_map.1 hd
  exact hasKind_bitWord s.params tp b

theorem responds_cbNew (n : BitVec 16) (tp : TimingProfile) :
    Responds (.cbNew n tp) s (execCbNew n tp s) := by
  unfold execCbNew
  cases s.life with
  | empty => exact responds_done hs ⟨rfl, rfl⟩ (dataAsExpected_nil rfl)
  | cbLive | dispLive | released => exact responds_raise hs (by decide)

theorem responds_dispNew (w h m : BitVec 8) (tp : TimingProfile) :
    Responds (.dispNew w h m tp) s (execDispNew w h m tp s) := by
  unfold execDispNew
  cases s.life with
  | empty => exact responds_done hs ⟨rfl, rfl⟩ (dataAsExpected_nil rfl)
  | cbLive | dispLive | released => exact responds_raise hs (by decide)

theorem responds_cbSetColor (k : BitVec 16) (c : Color) :
    Responds (.cbSetColor k c) s (execCbSetColor k c s) :=
  responds_check hs fun _ => responds_check hs fun _ =>
    responds_commit hs (fun _ hu => samePorts_of_frame (writeSlices_frame hu)) rfl

theorem responds_cbSetAll (n : BitVec 16) (cs : List Color) (bad : Bool) :
    Responds (.cbSetAll n cs bad) s (execCbSetAll n cs bad s) :=
  responds_check hs fun _ => responds_check hs fun _ => responds_check hs fun _ =>
    responds_commit hs (fun _ hu => samePorts_of_frame (writeSlices_frame hu)) rfl

theorem responds_execShift (dir : Direction) (a l k : BitVec 16) (hd : (expectedData i s).2 = 0) :
    Responds i s (execShift dir a l k s) := by
  refine responds_check hs fun _ => ?_
  cases he : shiftError s.n a l k with
  | some e => exact responds_raise hs (shiftError_ne_ok he)
  | none => exact responds_commit hs (fun _ hu => samePorts_of_frame (rangeRotate_frame hu)) hd

theorem responds_cbSend (wait : Bool) : Responds (.cbSend wait) s (execCbSend wait s) :=
  responds_check hs fun _ => responds_send ⟨rfl, rfl⟩ rfl

theorem responds_cbTurnOff (wait : Bool) : Responds (.cbTurnOff wait) s (execCbTurnOff wait s) := by
  refine responds_check hs fun _ => ?_
  split
  · exact responds_fault _ s _
  · next u hu => exact responds_send (samePorts_of_frame (writeSlices_frame hu)) rfl

theorem responds_cbRelease : Responds .cbRelease s (exec .cbRelease s) := by
  cases hl : s.life with
  | empty =>
    simp only [exec, execCbRelease, hl]
    exact responds_raise hs (by decide)
  | released =>
    simp only [exec, execCbRelease, hl]
    exact responds_done hs ⟨rfl, rfl⟩ (dataAsExpected_nil rfl)
  | cbLive | dispLive =>
    intro t h
    obtain ⟨pl, q, d, rfl⟩ := cbRelease_frame (by rw [hl]; rfl) h
    cases s.callReturns with
    | false => exact .inl ⟨nofun, rfl⟩
    | true => exact .inr ⟨[], .ok, rfl, by simp, fun _ => rfl, fun _ => dataAsExpected_nil rfl⟩

theorem responds_gmIndex (x y w h m : BitVec 8) :
    Responds (.gmIndex x y w h m) s (execGmIndex x y w h m s) := by
  unfold execGmIndex
  cases WiringMode.ofByte m with
  | none => exact responds_raise hs (by decide)
  | some mode =>
    refine responds_check hs fun _ => responds_done hs ⟨rfl, rfl⟩ ⟨rfl, fun d hd => ?_⟩
    rw [List.mem_singleton.1 hd]
    exact hasKind_indexWord _

theorem responds_gmShift (m rows w : BitVec 8) (k : BitVec 16) :
    Responds (.gmShift m rows w k) s (execGmShift m rows w k s) := by
  unfold execGmShift
  cases WiringMode.ofByte m with
  | none => exact responds_raise hs (by decide)
  | some mode =>
    refine responds_done hs ⟨rfl, rfl⟩ ⟨by simp [toStripShift, expectedData], fun d hd => ?_⟩
    obtain ⟨op, -, rfl⟩ := List.mem_map.1 hd
    exact hasKind_shiftOpWord op

theorem responds_dispSetPixel (x y : BitVec 8) (c : Color) :
    Responds (.dispSetPixel x y c) s (execDispSetPixel x y c s) := by
  refine responds_check hs fun _ => responds_check hs fun _ => responds_commit hs (fun u hu => ?_) rfl
  unfold State.writeGrid at hu
  split at hu <;> cases hu
  exact ⟨rfl, rfl⟩

theorem responds_dispRender : Responds .dispRender s (execDispRender s) := by
  refine responds_check hs fun _ => ?_
  cases WiringMode.ofByte s.mode with
  | none => exact responds_raise hs (by decide)
  | some m =>
    dsimp only
    split
    · exact responds_fault _ s _
    · next p hp =>
      split
      · exact responds_fault _ s _
      · next u hu =>
        refine responds_done hs (samePorts_of_frame (writeSlices_frame hu))
          ⟨by rw [List.length_map, permuteGrid_length hp]; rfl, fun d hd => ?_⟩
        obtain ⟨c, -, rfl⟩ := List.mem_map.1 hd
        exact hasKind_colorDataWord c

theorem responds_dispShiftR (k : BitVec 16) (wait : Bool) :
    Responds (.dispShiftR k wait) s (execDispShiftR k wait s) := by
  refine responds_check hs fun _ => ?_
  cases WiringMode.ofByte s.mode with
  | none => exact responds_raise hs (by decide)
  | some m =>
    refine responds_check hs fun _ => ?_
    split
    · exact responds_fault _ s _
    · next u hu => exact responds_send (samePorts_of_frame (rotateRows_frame hu)) rfl

theorem responds_exec (i : Instr) : Responds i s (exec i s) := by
  cases i with
  | peEncode c tp => exact responds_peEncode hs c tp
  | cbNew n tp => exact responds_cbNew hs n tp
  | cbSetColor k c => exact responds_cbSetColor hs k c
  | cbSetAll n cs bad => exact responds_cbSetAll hs n cs bad
  | cbShiftR a l k => exact responds_execShift hs .right a l k rfl
  | cbShiftL a l k => exact responds_execShift hs .left a l k rfl
  | cbSend wait => exact responds_cbSend hs wait
  | cbTurnOff wait => exact responds_cbTurnOff hs wait
  | cbRelease => exact responds_cbRelease hs
  | gmIndex x y w h m => exact responds_gmIndex hs x y w h m
  | gmShift m rows w k => exact responds_gmShift hs m rows w k
  | dispNew w h m tp => exact responds_dispNew hs w h m tp
  | dispSetPixel x y c => exact responds_dispSetPixel hs x y c
  | dispRender => exact responds_dispRender hs
  | dispShiftR k wait => exact responds_dispShiftR hs k wait

end

/-- Settles O19: each command ends in an error, in its own response, or in a call. -/
theorem everyCommandGivesOneResponse : Obligations.EveryCommandGivesOneResponse :=
  fun i _ t hs h => responds_exec hs i t h

end Sys2Proof.Machine
end

section
/-! PROOFS. The command stream (30_encoding.md R86, R88, R96, R97): what a turn of the ports does, what the
decoder does with one word in each of its two phases, and from these a command of any number of words. -/

namespace Sys2Proof.Machine

open Sys2Proof.Claims

/-! ### Legality of the next word -/

theorem opcode_byte_mem_legalOpcodes (op : Opcode) : op.byte ∈ legalOpcodes := by
  cases op <;> decide

/-- The words that 30_encoding.md R85 and R86 call illegal are no headers. -/
theorem headerOpcode_ne_ok_of_illegal {w : Word}
    (h : opcodeOf w ∉ legalOpcodes ∨
      ∃ op : Opcode, opcodeOf w = op.byte ∧ w &&& tableMask op ≠ tableMatch op) (op : Opcode) :
    headerOpcode w ≠ .ok op := by
  intro ho
  obtain ⟨hb, -⟩ := (headerOpcode_ok_iff w op).1 ho
  obtain hn | ⟨op', hb', hm⟩ := h
  · exact hn (hb ▸ opcode_byte_mem_legalOpcodes op)
  · have he : op = op' := by
      have hf := opcode_ofByte_byte op
      rw [← hb, hb', opcode_ofByte_byte] at hf
      exact (Option.some.inj hf).symm
    exact hm (he ▸ (headerLegalityIsMaskAndMatch w op).1 ho)

theorem decode_error_of_no_header {w : Word} (h : ∀ op, headerOpcode w ≠ .ok op) (payload : List Word) :
    ∃ e, decode w payload = .error e := by
  cases hd : decode w payload with
  | error e => exact ⟨e, rfl⟩
  | ok i =>
    obtain ⟨op, ho, -⟩ := (decode_ok_iff _ _ _).1 hd
    exact absurd ho (h op)

/-- A word asks for a payload exactly where it is a legal header of `CB_SETALL` with a count. -/
theorem payloadCount_eq_zero_of_not_setAll {w : Word}
    (h : ¬ (w &&& tableMask .cbSetAll = tableMatch .cbSetAll ∧ 1 ≤ (field w 40 16).toNat)) :
    payloadCount w = 0 := by
  by_cases ho : headerOpcode w = .ok .cbSetAll
  · rw [payloadCount_of_cbSetAll ho]
    have hm := (headerLegalityIsMaskAndMatch w .cbSetAll).1 ho
    by_contra hc
    exact h ⟨hm, Nat.one_le_iff_ne_zero.2 hc⟩
  · exact payloadCount_of_ne ho

/-! ### One word -/

theorem runHeader_of_ok {w : Word} {i : Instr} (h : decode w [] = .ok i) (s : State) :
    runHeader w s = exec i s := by
  rw [runHeader, h]

theorem runHeader_of_error {w : Word} {e : Reject} (h : decode w [] = .error e) (s : State) :
    runHeader w s = raise s .illegalCommand := by
  rw [runHeader, h]

/-- In IDLE a word that asks for no payload is complete (30_encoding.md R96). -/
theorem acceptWord_complete {s : State} {w : Word} (hd : s.dec = .idle) (h : payloadCount w = 0) :
    acceptWord w s = runHeader w s := by
  rw [acceptWord, hd]
  exact if_pos h

/-- In IDLE a header of `CB_SETALL` with a count begins a payload (30_encoding.md R96). -/
theorem acceptWord_header {s : State} {w : Word} (hd : s.dec = .idle)
    (ho : headerOpcode w = .ok .cbSetAll) (h : (field w 40 16).toNat ≠ 0) :
    acceptWord w s = .next (s.setDec (.payload (field w 40 16) 0 [] false)) := by
  rw [acceptWord, hd]
  dsimp only
  rw [payloadCount_of_cbSetAll ho, if_neg h, BitVec.ofNat_toNat, BitVec.setWidth_eq]

/-- The last payload word completes the command (30_encoding.md R96). -/
theorem acceptWord_last {s : State} {w : Word} {count : BitVec 16} {got : Nat} {cs : List Color} {bad : Bool}
    (hd : s.dec = .payload count got cs bad) (h : got + 1 = count.toNat) :
    acceptWord w s =
      exec (.cbSetAll count (acceptPayload (cs, bad) w).1 (acceptPayload (cs, bad) w).2) (s.setDec .idle) := by
  rw [acceptWord, hd]
  exact if_pos h

/-- A payload word before the last is counted (30_encoding.md R96). -/
theorem acceptWord_next {s : State} {w : Word} {count : BitVec 16} {got : Nat} {cs : List Color} {bad : Bool}
    (hd : s.dec = .payload count got cs bad) (h : got + 1 ≠ count.toNat) :
    acceptWord w s =
      .next (s.setDec
        (.payload count (got + 1) (acceptPayload (cs, bad) w).1 (acceptPayload (cs, bad) w).2)) := by
  rw [acceptWord, hd]
  exact if_neg h

/-- A command of one word runs with the step that takes it. -/
theorem step_command {s : State} {w : Word} {ws : List Word} {i : Instr} (hr : Ready s) (hd : s.dec = .idle)
    (hc : s.cmd = w :: ws) (h : decode w [] = .ok i) : step s = exec i (s.setCmd ws) := by
  obtain ⟨-, -, hl, -⟩ := (decode_ok_iff _ _ _).1 h
  rw [step_accept hr hc, acceptWord_complete (s := s.setCmd ws) hd hl.symm, runHeader_of_ok h]

/-- Settles O7. -/
theorem stepRunsTheDecodedCommand : Obligations.StepRunsTheDecodedCommand :=
  fun _ _ _ _ hr hd hc h => step_command hr hd hc h

/-- Settles O8: an illegal word asks for no payload and decodes to no command. -/
theorem illegalWordIsReportedWithoutEffect : Obligations.IllegalWordIsReportedWithoutEffect := by
  intro s w ws hr hd hc h
  have hn := headerOpcode_ne_ok_of_illegal h
  obtain ⟨e, he⟩ := decode_error_of_no_header hn []
  rw [step_accept hr hc, acceptWord_complete (s := s.setCmd ws) hd (payloadCount_of_ne (hn _)),
    runHeader_of_error he]
  obtain ⟨-, hrsp, -⟩ := hr
  rw [raise, State.respond, setCmd_rsp, hrsp]
  rfl

/-- Settles O9: one lemma of `acceptWord` for each transition. -/
theorem payloadWordsDriveTheDecoder : Obligations.PayloadWordsDriveTheDecoder := by
  constructor
  · intro s w ws hr hd hc
    rw [step_accept hr hc]
    refine ⟨fun hm h1 => ?_, fun hn => ?_⟩
    · exact acceptWord_header hd ((headerLegalityIsMaskAndMatch w .cbSetAll).2 hm)
        (Nat.one_le_iff_ne_zero.1 h1)
    · rw [acceptWord_complete (s := s.setCmd ws) hd (payloadCount_eq_zero_of_not_setAll hn)]
      exact ⟨fun i hi => runHeader_of_ok hi _, fun e he => runHeader_of_error he _⟩
  · intro s w ws count got cs bad hr hd hc cs' bad' hbad hclean
    have hacc : acceptPayload (cs, bad) w = (cs', bad') := by
      by_cases hw : field w 24 40 = 0
      · obtain ⟨rfl, rfl⟩ := hclean hw
        exact acceptPayload_clean hw _
      · obtain ⟨rfl, rfl⟩ := hbad hw
        exact acceptPayload_bad hw _
    rw [step_accept hr hc]
    refine ⟨fun hl => ?_, fun hl => ?_⟩
    · rw [acceptWord_last (s := s.setCmd ws) hd hl, hacc]
      rfl
    · rw [acceptWord_next (s := s.setCmd ws) hd hl, hacc]
      rfl

/-! ### A command of any number of words -/

/-- The payload words of a `CB_SETALL` from the next one on, taken one by one, run it: the colours and the mark
are those of all its words. -/
theorem run_payload {ws : List Word} {count : BitVec 16} (p : Word) (ps : List Word) {s : State} {got : Nat}
    {cs : List Color} {bad : Bool} (hr : Ready s) (hd : s.dec = .payload count got cs bad)
    (hc : s.cmd = p :: ps ++ ws) (hn : got + (p :: ps).length = count.toNat) :
    Host.Core.run Sys2Proof.core (p :: ps).length s =
      exec (.cbSetAll count ((p :: ps).foldl acceptPayload (cs, bad)).1
        ((p :: ps).foldl acceptPayload (cs, bad)).2) ((s.setCmd ws).setDec .idle) := by
  induction ps generalizing p s got cs bad with
  | nil =>
    rw [List.length_singleton, run_one, step_accept hr hc]
    exact acceptWord_last hd hn
  | cons q ps ih =>
    have hne : got + 1 ≠ count.toNat := by
      rw [← hn]
      simp
    have hstep := (step_accept hr hc).trans (acceptWord_next (s := s.setCmd (q :: ps ++ ws)) hd hne)
    exact (run_of_next _ hstep).trans
      (ih q hr rfl rfl (by rw [← hn, List.length_cons (a := p), Nat.succ_add_eq_add_succ]))

/-- A header and a payload that is not empty decode to a `CB_SETALL` only (30_encoding.md R88). -/
theorem decode_ok_of_payload {hd : Word} {payload : List Word} {i : Instr} (hne : payload ≠ [])
    (h : decode hd payload = .ok i) :
    headerOpcode hd = .ok .cbSetAll ∧ payload.length = (field hd 40 16).toNat ∧
      i = .cbSetAll (field hd 40 16) (payload.foldl acceptPayload ([], false)).1
        (payload.foldl acceptPayload ([], false)).2 := by
  obtain ⟨op, ho, hl, rfl⟩ := (decode_ok_iff _ _ _).1 h
  by_cases hs : headerOpcode hd = .ok .cbSetAll
  · rw [payloadCount_of_cbSetAll hs] at hl
    cases ho.symm.trans hs
    exact ⟨hs, hl, rfl⟩
  · rw [payloadCount_of_ne hs] at hl
    exact absurd (List.eq_nil_of_length_eq_zero hl) hne

/-- The state after the header of a `CB_SETALL` with this count, its payload in `ws` (30_encoding.md R96). -/
def State.headed (s : State) (ws : List Word) (count : BitVec 16) : State :=
  (s.setCmd ws).setDec (.payload count 0 [] false)

/-- Settles O10: the header begins the payload, whose words run the command. -/
theorem commandStreamRunsAsOneCommand : Obligations.CommandStreamRunsAsOneCommand := by
  intro s hd payload ws i hr hdec hc h
  cases payload with
  | nil =>
    rw [List.length_nil, run_one]
    exact step_command hr hdec hc h
  | cons p ps =>
    obtain ⟨ho, hl, rfl⟩ := decode_ok_of_payload (by simp) h
    have hstep : step s = .next (s.headed (p :: ps ++ ws) (field hd 40 16)) :=
      (step_accept hr hc).trans
        (acceptWord_header (s := s.setCmd (p :: ps ++ ws)) hdec ho (by rw [← hl]; simp))
    have hrun := run_payload p ps (s := s.headed (p :: ps ++ ws) (field hd 40 16)) hr rfl rfl
      (by rw [← hl, Nat.zero_add])
    exact (run_of_next _ hstep).trans
      (hrun.trans (congrArg (exec _) (setDec_idle (s := s.setCmd ws) hdec)))

/-! ### A command placed at the port -/

/-- The decoder phase before the last payload word. -/
theorem phaseBeforeLast_concat (ps : List Word) (p : Word) :
    phaseBeforeLast (ps ++ [p]) =
      .payload (BitVec.ofNat 16 (ps ++ [p]).length) ps.length (ps.foldl acceptPayload ([], false)).1
        (ps.foldl acceptPayload ([], false)).2 := by
  simp [phaseBeforeLast]

theorem lastWord_concat (hd : Word) (ps : List Word) (p : Word) : lastWord hd (ps ++ [p]) = p := by
  simp [lastWord]

/-- A turn in which the core takes a word. -/
theorem turn_accept {s : State} {w : Word} {ws : List Word} (hr : s.rsp = []) (ht : s.txCall = none)
    (hc : s.cmd = w :: ws) : turn s = acceptWord w (s.setCmd ws) := by
  simp only [turn, hr, ht, hc]

/-- The pending response words taken and no call outstanding: what placing a command does beside the command
port (log 12). -/
def State.cleared (s : State) : State := { s with taken := s.taken ++ s.rsp, rsp := [], txCall := none }

/-- The step from the state with a command placed takes the command's last word. -/
theorem step_withCommand (s : State) (hd : Word) (payload : List Word) :
    step (s.withCommand hd payload) =
      acceptWord (lastWord hd payload) (s.cleared.setDec (phaseBeforeLast payload)) :=
  (step_of_schedule (m := .turn) (ms := s.schedule) rfl).trans
    (turn_accept (s := (s.withCommand hd payload).setSchedule s.schedule) rfl rfl rfl)

/-- The last word of a command runs it, in the decoder phase its earlier words lead to. -/
theorem acceptWord_lastWord {hd : Word} {payload : List Word} {i : Instr} (h : decode hd payload = .ok i)
    (s : State) :
    acceptWord (lastWord hd payload) (s.setDec (phaseBeforeLast payload)) = exec i (s.setDec .idle) := by
  obtain rfl | ⟨ps, p, rfl⟩ := List.eq_nil_or_concat' payload
  · obtain ⟨-, -, hl, -⟩ := (decode_ok_iff _ _ _).1 h
    exact (acceptWord_complete rfl hl.symm).trans (runHeader_of_ok h _)
  · obtain ⟨-, hl, rfl⟩ := decode_ok_of_payload (by simp) h
    have hphase := phaseBeforeLast_concat ps p
    rw [hl, BitVec.ofNat_toNat, BitVec.setWidth_eq] at hphase
    rw [List.length_append, List.length_singleton] at hl
    rw [lastWord_concat, hphase, acceptWord_last rfl hl, List.foldl_concat]
    rfl

/-- Settles O11. -/
theorem fetchWordRunsTheCommand : Obligations.FetchWordRunsTheCommand := by
  intro s nbits w i h
  unfold decodeTableWord at h
  dsimp only at h
  split at h
  · next j hj =>
    cases h
    exact (step_withCommand s _ _).trans (acceptWord_lastWord hj s.cleared)
  · cases h

/-! ### The ports -/

theorem step_of_schedule_nil {s : State} (h : s.schedule = []) : step s = turn s := by
  rw [step, stepMove, h]

/-- The core waits where no word is offered (70_reset_and_hazards.md R241). -/
theorem turn_wait {s : State} (hr : s.rsp = []) (ht : s.txCall = none) (hc : s.cmd = []) :
    turn s = .next s := by
  simp only [turn, hr, ht, hc]

/-- The host takes the oldest response word where it is ready, and stalls the core where it is not
(70_reset_and_hazards.md R236). -/
theorem turn_of_rsp {s : State} {w : Word} {ws : List Word} (hr : s.rsp = w :: ws) :
    turn s = if s.rspReady then .next (s.take w ws) else .next s := by
  simp only [turn, hr]

/-- Settles O12. -/
theorem portsWaitAndHandOver : Obligations.PortsWaitAndHandOver := by
  refine ⟨?_, ?_, ?_, ?_⟩
  · rintro s ⟨hs, hr, ht⟩ hc
    rw [step_of_schedule_nil hs, turn_wait hr ht hc]
  · intro s w ws hs hr hb
    rw [step_of_schedule_nil hs, turn_of_rsp hr, if_pos hb]
    rfl
  · intro s hs hr hb
    obtain ⟨w, ws, hw⟩ := List.exists_cons_of_ne_nil hr
    rw [step_of_schedule_nil hs, turn_of_rsp hw, hb]
    rfl
  · exact fun s ms => ⟨step_of_schedule_nil, step_of_schedule, fun _ => step_of_schedule,
      fun _ => step_of_schedule, fun _ => step_of_schedule⟩

end Sys2Proof.Machine
end

section
/-! PROOFS. The PulseEncoder (40_pulse_encoder.md): the bit sequence of a colour is the colour's number, the
bytes of a block are those of the bits, the bits are read back from a block, and the `PULSE` words are the
pulse commands as numbers. -/

namespace Sys2Proof.Machine

open Sys2Proof.Claims

/-! ### The bit sequence -/

/-- The number of a colour (40_pulse_encoder.md R112): its bytes side by side, G highest. -/
def colorNumber (c : Color) : Nat := c.g.toNat * 65536 + c.r.toNat * 256 + c.b.toNat

theorem colorNumber_lt (c : Color) : colorNumber c < 2 ^ 24 := by
  have hg := c.g.isLt
  have hr := c.r.isLt
  have hb := c.b.isLt
  unfold colorNumber
  omega

theorem colorNumber_inj {c d : Color} (h : colorNumber c = colorNumber d) : c = d := by
  obtain ⟨r, g, b⟩ := c
  obtain ⟨r', g', b'⟩ := d
  simp only [colorNumber] at h
  have hr : r = r' := by bv_omega
  have hg : g = g' := by bv_omega
  have hb : b = b' := by bv_omega
  rw [hr, hg, hb]

/-- Each byte of a colour is eight bits of its number. -/
theorem colorNumber_testBit (c : Color) (i : Nat) :
    (colorNumber c).testBit i =
      if i < 8 then c.b.getLsbD i else if i < 16 then c.r.getLsbD (i - 8) else c.g.getLsbD (i - 16) := by
  have hn : colorNumber c = 2 ^ 8 * (2 ^ 8 * c.g.toNat + c.r.toNat) + c.b.toNat := by
    unfold colorNumber
    ring
  rw [hn, Nat.testBit_two_pow_mul_add _ c.b.isLt, Nat.testBit_two_pow_mul_add _ c.r.isLt]
  simp only [BitVec.testBit_toNat, show i - 8 < 8 ↔ i < 16 by omega, Nat.sub_sub]

theorem transmissionBit_eq_testBit (c : Color) (k : Nat) :
    transmissionBit c k = (colorNumber c).testBit (23 - k) := rfl

/-- Bit `k` of the transmission is a bit of G, R or B, each most significant bit first
(40_pulse_encoder.md R112). -/
theorem transmissionBit_eq (c : Color) {k : Nat} (hk : k < 24) :
    transmissionBit c k =
      if k < 8 then c.g.getLsbD (7 - k) else if k < 16 then c.r.getLsbD (15 - k)
      else c.b.getLsbD (23 - k) := by
  rw [transmissionBit_eq_testBit, colorNumber_testBit]
  by_cases h8 : k < 8
  · rw [if_neg (by omega), if_neg (by omega), if_pos h8, show 23 - k - 16 = 7 - k by omega]
  by_cases h16 : k < 16
  · rw [if_neg (by omega), if_pos (by omega), if_neg h8, if_pos h16, show 23 - k - 8 = 15 - k by omega]
  · rw [if_pos (by omega), if_neg h8, if_neg h16]

theorem bitseq_eq_transmissionBits (c : Color) : bitseq c = (List.range 24).map (transmissionBit c) :=
  List.map_congr_left fun _ hk => (transmissionBit_eq c (List.mem_range.1 hk)).symm

theorem bitseq_getElem? (c : Color) {k : Nat} (hk : k < 24) :
    (bitseq c)[k]? = some (transmissionBit c k) := by
  simp [bitseq_eq_transmissionBits, hk]

/-- A colour is known from the 24 bits of its transmission. -/
theorem eq_of_transmissionBits {c d : Color}
    (h : ∀ k, k < 24 → transmissionBit c k = transmissionBit d k) : c = d := by
  refine colorNumber_inj (Nat.eq_of_testBit_eq fun i => ?_)
  by_cases hi : i < 24
  · have hk := h (23 - i) (by omega)
    rwa [transmissionBit_eq_testBit, transmissionBit_eq_testBit, show 23 - (23 - i) = i by omega] at hk
  · have hle : 2 ^ 24 ≤ 2 ^ i := Nat.pow_le_pow_right (by decide) (by omega)
    rw [Nat.testBit_eq_false_of_lt ((colorNumber_lt c).trans_le hle),
      Nat.testBit_eq_false_of_lt ((colorNumber_lt d).trans_le hle)]

/-- Settles O29. -/
theorem bitSequenceIsTheNumberMsbFirst : Obligations.BitSequenceIsTheNumberMsbFirst := by
  refine fun c => ⟨bitseq_eq_transmissionBits c, fun k hk => ?_⟩
  rw [bitseq_getElem? c hk, transmissionBit_eq c hk]
  simp only [Nat.lt_succ_iff]

/-! ### The block of a colour -/

/-- An element of a sequence of blocks of one length. -/
theorem flatMap_blocks_getElem? {α β : Type} (f : α → List β) (b : Nat) (hf : ∀ x, (f x).length = b)
    {xs : List α} {k j : Nat} {x : α} (hx : xs[k]? = some x) (hj : j < b) :
    (xs.flatMap f)[b * k + j]? = (f x)[j]? := by
  obtain ⟨hk, rfl⟩ := List.getElem?_eq_some_iff.1 hx
  rw [← List.getElem?_drop, drop_flatMap_blocks f b hf, List.drop_eq_getElem_cons hk, List.flatMap_cons,
    List.getElem?_append_left (by rwa [hf])]

/-- The four bytes of a pulse command (40_pulse_encoder.md R113). -/
theorem pulse_eq (p : Params) (t : TimingProfile) (bit : Bool) :
    pulse p t bit = [if bit then t.oneHigh else t.zeroHigh, p.highMarker,
      if bit then t.oneLow else t.zeroLow, p.lowMarker] := by
  cases bit <;> rfl

/-- Pulse command `k` is at bytes `4k .. 4k+3` of the block (40_pulse_encoder.md R113). -/
theorem encodeColor_getElem? (p : Params) (c : Color) (t : TimingProfile) {k : Nat} (hk : k < 24)
    (j : Nat) (hj : j < 4 := by decide) :
    (encodeColor p c t)[4 * k + j]? = [if transmissionBit c k then t.oneHigh else t.zeroHigh, p.highMarker,
      if transmissionBit c k then t.oneLow else t.zeroLow, p.lowMarker][j]? := by
  rw [← pulse_eq]
  exact flatMap_blocks_getElem? _ 4 (pulse_length p t) (bitseq_getElem? c hk) hj

theorem encodeColor_high (p : Params) (c : Color) (t : TimingProfile) {k : Nat} (hk : k < 24) :
    (encodeColor p c t)[4 * k]? = some (if transmissionBit c k then t.oneHigh else t.zeroHigh) :=
  encodeColor_getElem? p c t hk 0

theorem encodeColor_low (p : Params) (c : Color) (t : TimingProfile) {k : Nat} (hk : k < 24) :
    (encodeColor p c t)[4 * k + 2]? = some (if transmissionBit c k then t.oneLow else t.zeroLow) :=
  encodeColor_getElem? p c t hk 2

theorem bitseq_black : bitseq Color.black = List.replicate 24 false := rfl

theorem offPattern_eq (p : Params) (t : TimingProfile) :
    offPattern p t = (List.replicate 24 (pulse p t false)).flatten := by
  rw [offPattern, encodeColor, bitseq_black, List.flatMap_replicate]

/-- Settles O30. -/
theorem pixelBlockLayout : Obligations.PixelBlockLayout := fun p c t =>
  ⟨encodeColor_length p c t, offPattern_eq p t, fun _ hk =>
    ⟨encodeColor_high p c t hk, encodeColor_getElem? p c t hk 1, encodeColor_low p c t hk,
      encodeColor_getElem? p c t hk 3⟩⟩

/-! ### Reading a block back -/

/-- Where the pairs differ, the pair of a bit is that of the one-bit exactly where the bit is set, and
otherwise it is that of the zero-bit (40_pulse_encoder.md R115). -/
theorem decodePulse_encodeColor (p : Params) {t : TimingProfile}
    (ht : (t.oneHigh, t.oneLow) ≠ (t.zeroHigh, t.zeroLow)) (c : Color) {k : Nat} (hk : k < 24) :
    decodePulse t (encodeColor p c t) k = some (transmissionBit c k) := by
  simp only [decodePulse, encodeColor_high p c t hk, encodeColor_low p c t hk]
  cases transmissionBit c k with
  | true => exact if_pos ⟨rfl, rfl⟩
  | false =>
    have hz : ¬ (t.zeroHigh = t.oneHigh ∧ t.zeroLow = t.oneLow) :=
      fun h => ht (Prod.ext h.1.symm h.2.symm)
    exact (if_neg hz).trans (if_pos ⟨rfl, rfl⟩)

theorem encodeColor_inj (p : Params) {t : TimingProfile}
    (ht : (t.oneHigh, t.oneLow) ≠ (t.zeroHigh, t.zeroLow)) {c d : Color}
    (h : encodeColor p c t = encodeColor p d t) : c = d := by
  refine eq_of_transmissionBits fun k hk => Option.some.inj ?_
  rw [← decodePulse_encodeColor p ht c hk, h, decodePulse_encodeColor p ht d hk]

/-- Under equal pairs the pulse commands of the two bits are the same, so every block is the off
pattern (40_pulse_encoder.md R116). -/
theorem encodeColor_eq_of_pairs_eq (p : Params) {t : TimingProfile}
    (ht : (t.oneHigh, t.oneLow) = (t.zeroHigh, t.zeroLow)) (c : Color) :
    encodeColor p c t = offPattern p t := by
  obtain ⟨hh, hl⟩ := Prod.mk.inj ht
  have hp : pulse p t = fun _ => pulse p t false := by
    funext bit
    rw [pulse_eq, pulse_eq, hh, hl]
    cases bit <;> rfl
  rw [encodeColor, hp, List.flatMap_def, List.map_const', bitseq_length, offPattern_eq]

/-- Settles O31. -/
theorem pixelBlockIsDecodable : Obligations.PixelBlockIsDecodable := fun p _ =>
  ⟨fun ht => ⟨fun c _ hk => decodePulse_encodeColor p ht c hk, fun _ _ h => encodeColor_inj p ht h⟩,
    fun ht c d =>
      (encodeColor_eq_of_pairs_eq p ht c).trans (encodeColor_eq_of_pairs_eq p ht d).symm⟩

/-! ### PE_ENCODE -/

theorem pulseWord_eq_ofNat (b0 b1 b2 b3 : Byte) :
    pulseWord b0 b1 b2 b3 = BitVec.ofNat 64
      (0x03 * 2 ^ 56 + b0.toNat * 2 ^ 24 + b1.toNat * 2 ^ 16 + b2.toNat * 2 ^ 8 + b3.toNat) := by
  rw [← pulseWord_toNat, BitVec.ofNat_toNat, BitVec.setWidth_eq]

/-- The `PULSE` word of a bit of the transmission, as a number (40_pulse_encoder.md R114). -/
theorem bitWord_transmissionBit (p : Params) (t : TimingProfile) (c : Color) (k : Nat) :
    bitWord p t (transmissionBit c k) = pulseDataWord p c t k := by
  simp only [bitWord, pulseDataWord, pulseWord_eq_ofNat]

theorem pulseWords_encodeColor_eq_pulseDataWords (p : Params) (c : Color) (t : TimingProfile) :
    pulseWords (encodeColor p c t) = (List.range 24).map (pulseDataWord p c t) := by
  rw [pulseWords_encodeColor, bitseq_eq_transmissionBits, List.map_map]
  exact List.map_congr_left fun k _ => bitWord_transmissionBit p t c k

/-- Settles O32. -/
theorem peEncodeResult : Obligations.PeEncodeResult := by
  intro c t s
  rw [← pulseWords_encodeColor_eq_pulseDataWords]
  rfl

/-! ### The words of the rules -/

/-- Settles O5: the decoder evaluates each of the ten words to the command that the rule names. -/
theorem sampleWordsDecode : Obligations.SampleWordsDecode :=
  ⟨rfl, rfl, rfl, rfl, rfl, rfl, rfl, rfl, rfl, rfl⟩

end Sys2Proof.Machine
end

section
/-! PROOFS. Rotating a range of a sequence (20_memory.md R55; 41_command_buffer.md R128 to R130), whatever its
elements are. -/

namespace Sys2Proof.Machine

/-! ### A range rotated -/

/-- A sequence with the range `[start, start + length)` rotated (20_memory.md R55). -/
def rotateRange {α : Type} (dir : Direction) (start length steps : Nat) (xs : List α) : List α :=
  splice xs start (rotate dir ((xs.drop start).take length) steps)

section
variable {α : Type} {start length : Nat} {xs : List α} (h : start + length ≤ xs.length)
include h

theorem range_length : ((xs.drop start).take length).length = length := by
  rw [List.length_take, List.length_drop]
  omega

theorem rotated_length (dir : Direction) (k : Nat) :
    (rotate dir ((xs.drop start).take length) k).length = length := by
  rw [rotate_length, range_length h]

theorem rotateRange_length (dir : Direction) (k : Nat) :
    (rotateRange dir start length k xs).length = xs.length :=
  splice_length _ _ _ (by rwa [rotated_length h])

/-- The range after the rotation. -/
theorem rotateRange_range (dir : Direction) (k : Nat) :
    ((rotateRange dir start length k xs).drop start).take length =
      rotate dir ((xs.drop start).take length) k := by
  have hr := splice_range xs start (rotate dir ((xs.drop start).take length) k)
    (by rwa [rotated_length h])
  rwa [rotated_length h] at hr

theorem rotateRange_getElem?_outside (dir : Direction) (k : Nat) {i : Nat}
    (hi : i < start ∨ start + length ≤ i) : (rotateRange dir start length k xs)[i]? = xs[i]? := by
  have hl := rotated_length h dir k
  rw [rotateRange, splice_getElem? _ _ _ (by omega), if_neg (by omega)]

theorem rotateRange_getElem?_inside (dir : Direction) (k : Nat) {j : Nat} (hj : j < length) :
    (rotateRange dir start length k xs)[start + j]? = (rotate dir ((xs.drop start).take length) k)[j]? := by
  have hl := rotated_length h dir k
  rw [rotateRange, splice_getElem? _ _ _ (by omega), if_pos (by omega), Nat.add_sub_cancel_left]

/-- Element `start + j` goes to `start + ((j + k) mod length)` (41_command_buffer.md R128). -/
theorem rotateRange_right_getElem? {k j : Nat} (hk : k ≤ length) (hj : j < length) :
    (rotateRange .right start length k xs)[start + (j + k) % length]? = xs[start + j]? := by
  have hl := range_length h
  have hm := rotateRight_getElem? ((xs.drop start).take length) (k := k) (j := j) (by omega) (by omega)
  rw [hl, List.getElem?_take_of_lt hj, List.getElem?_drop] at hm
  exact (rotateRange_getElem?_inside h .right k (Nat.mod_lt _ (Nat.zero_lt_of_lt hj))).trans hm

/-- Element `start + ((j + k) mod length)` goes to `start + j` (41_command_buffer.md R129). -/
theorem rotateRange_left_getElem? {k j : Nat} (hk : k ≤ length) (hj : j < length) :
    (rotateRange .left start length k xs)[start + j]? = xs[start + (j + k) % length]? := by
  have hl := range_length h
  have hm := rotateLeft_getElem? ((xs.drop start).take length) (k := k) (j := j) (by omega) (by omega)
  rw [hl, List.getElem?_take_of_lt (Nat.mod_lt _ (Nat.zero_lt_of_lt hj)), List.getElem?_drop] at hm
  exact (rotateRange_getElem?_inside h .left k hj).trans hm

/-- Two rotations of one range rotate its content twice. -/
theorem rotateRange_rotateRange (d e : Direction) (k m : Nat) :
    rotateRange e start length m (rotateRange d start length k xs) =
      splice xs start (rotate e (rotate d ((xs.drop start).take length) k) m) := by
  have hl := rotated_length h d k
  rw [rotateRange, rotateRange_range h]
  exact splice_splice _ _ _ _ (by omega) (rotate_length ..)

/-- A rotation back by the same amount restores the sequence (41_command_buffer.md R130 (a)). -/
theorem rotateRange_left_right {k : Nat} (hk : k ≤ length) :
    rotateRange .left start length k (rotateRange .right start length k xs) = xs := by
  rw [rotateRange_rotateRange h, rotate, rotate, rotateLeft_rotateRight _ (by rwa [range_length h]),
    splice_self _ _ _ h]

theorem rotateRange_right_left (k : Nat) :
    rotateRange .right start length k (rotateRange .left start length k xs) = xs := by
  rw [rotateRange_rotateRange h, rotate, rotate, rotateRight_rotateLeft, splice_self _ _ _ h]

end

/-! ### Two rotations in one direction -/

/-- A rotation Left is the library's rotation. -/
theorem rotateLeft_eq_rotate {α : Type} (xs : List α) {k : Nat} (hk : k ≤ xs.length) :
    rotateLeft xs k = xs.rotate k :=
  (List.rotate_eq_drop_append_take hk).symm

theorem rotateRight_eq_rotate {α : Type} (xs : List α) (k : Nat) :
    rotateRight xs k = xs.rotate (xs.length - k) :=
  (List.rotate_eq_drop_append_take (Nat.sub_le ..)).symm

/-- Rotations by amounts that agree modulo the length are equal. -/
theorem rotate_congr_mod {α : Type} (xs : List α) {m n : Nat} (h : m ≡ n [MOD xs.length]) :
    xs.rotate m = xs.rotate n := by
  rw [← List.rotate_mod xs m, h, List.rotate_mod]

/-- The complements of two amounts add up to the complement of their sum modulo the length. -/
theorem complement_add_modEq {l k m : Nat} (hk : k ≤ l) (hm : m ≤ l) (hl : 0 < l) :
    l - k + (l - m) ≡ l - (k + m) % l [MOD l] := by
  have hr : (k + m) % l < l := Nat.mod_lt _ hl
  have h1 : l - k + (l - m) + (k + m) ≡ 0 [MOD l] := by
    rw [show l - k + (l - m) + (k + m) = l * 2 by omega]
    exact Nat.mul_mod_right l 2
  have h2 : l - (k + m) % l + (k + m) ≡ 0 [MOD l] :=
    calc l - (k + m) % l + (k + m) ≡ l - (k + m) % l + (k + m) % l [MOD l] :=
          (Nat.mod_modEq (k + m) l).symm.add_left _
      _ = l := Nat.sub_add_cancel hr.le
      _ ≡ 0 [MOD l] := Nat.mod_self l
  exact Nat.ModEq.add_right_cancel' (k + m) (h1.trans h2.symm)

/-- Two rotations in one direction compose (41_command_buffer.md R130 (e)). -/
theorem rotate_rotate_mod {α : Type} (dir : Direction) (xs : List α) {k m : Nat} (hk : k ≤ xs.length)
    (hm : m ≤ xs.length) (hl : 0 < xs.length) :
    rotate dir (rotate dir xs k) m = rotate dir xs ((k + m) % xs.length) := by
  cases dir with
  | left =>
    simp only [rotate]
    rw [rotateLeft_eq_rotate _ (by rwa [rotateLeft_length]), rotateLeft_eq_rotate xs hk,
      rotateLeft_eq_rotate xs (Nat.mod_lt _ hl).le, List.rotate_rotate, List.rotate_mod]
  | right =>
    simp only [rotate]
    rw [rotateRight_eq_rotate _ m, rotateRight_length, rotateRight_eq_rotate, rotateRight_eq_rotate,
      List.rotate_rotate]
    exact rotate_congr_mod xs (complement_add_modEq hk hm hl)

/-- Two rotations of a range in one direction compose. -/
theorem rotateRange_compose {α : Type} {start length : Nat} {xs : List α}
    (h : start + length ≤ xs.length) (dir : Direction) {k m : Nat} (hk : k ≤ length) (hm : m ≤ length)
    (hl : 0 < length) :
    rotateRange dir start length m (rotateRange dir start length k xs) =
      rotateRange dir start length ((k + m) % length) xs := by
  have hr := range_length h
  have hc := rotate_rotate_mod dir ((xs.drop start).take length) (k := k) (m := m) (by omega) (by omega)
    (by omega)
  rw [rotateRange_rotateRange h, hc, hr, rotateRange]

end Sys2Proof.Machine
end

section
/-! PROOFS. The CommandBuffer commands that write pixels (41_command_buffer.md). A write of pixels and a rotation of a
range have one effect, `Redraw`: the pixels of a range are replaced and the buffer follows. What a slice holds
afterwards is read off the buffer invariant. -/

namespace Sys2Proof.Machine

open Sys2Proof.Claims

/-! ### Pixels replaced and the buffer with them -/

/-- `s` with the pixels from `start` on replaced, the buffer `b`, and `q` in flight. -/
def State.redrawn (s : State) (start : Nat) (cs : List Color) (b : Memory) (q : List Transmission) : State :=
  { s with pix := splice s.pix start cs, buf := b, txq := q }

/-- The buffer `b` follows the new pixels, every byte outside their slices is as before, and the same
transmissions are in flight. -/
structure Redraw (s : State) (start : Nat) (cs : List Color) (b : Memory) (q : List Transmission) :
    Prop where
  inFlight : SameInFlight s.txq q
  buffer : BufferInv (s.redrawn start cs b q)
  outside : ∀ a, a < s.slice start ∨ s.slice (start + cs.length) ≤ a → b.read a = s.buf.read a

/-- A write of BUF keeps what is in flight and marks it. -/
theorem sameInFlight_touch (q : List Transmission) : SameInFlight q (q.map Transmission.touch) := by
  simp [SameInFlight, Transmission.touch, Function.comp_def]

/-- Writing no pixel is a redraw of none. -/
theorem redraw_nil {s : State} (h : BufferInv s) (start : Nat) :
    s = s.redrawn start [] s.buf s.txq ∧ Redraw s start [] s.buf s.txq := by
  have e : s = s.redrawn start [] s.buf s.txq := by simp [State.redrawn, splice]
  exact ⟨e, rfl, e ▸ h, fun _ _ => rfl⟩

/-- Writing pixels of the strip and the buffer that encodes them. -/
theorem redraw_withPix {s : State} (h : BufferInv s) {start : Nat} {cs : List Color}
    (hb : start + cs.length ≤ s.n.toNat) :
    Redraw s start cs (s.withPix (splice s.pix start cs)).buf (s.txq.map Transmission.touch) := by
  obtain ⟨hbuf, hp⟩ := (bufferInv_iff s).1 h
  refine ⟨sameInFlight_touch _, ?_, fun a ha => ?_⟩
  · exact bufferInv_withPix s _ (by rw [splice_length _ _ _ (by omega), hp])
  · have hi := image_length s
    have hl := blocks_length s cs
    unfold State.slice at ha
    rw [withPix_buf, ← splice_image, hbuf, Memory.read_array, Memory.read_array,
      splice_getElem? _ _ _ (by unfold State.slice; omega), if_neg (by unfold State.slice; omega)]

theorem writeSlices_redraws {s : State} (h : BufferInv s) {start : Nat} {cs : List Color}
    (hb : start + cs.length ≤ s.n.toNat) :
    ∃ b q, s.writeSlices start cs = .ok (s.redrawn start cs b q) ∧ Redraw s start cs b q := by
  rw [writeSlices_eq h hb]
  split
  · next hc =>
    subst hc
    obtain ⟨e, hr⟩ := redraw_nil h start
    exact ⟨_, _, congrArg _ e, hr⟩
  · exact ⟨_, _, rfl, redraw_withPix h hb⟩

theorem rangeRotate_redraws {s : State} (h : BufferInv s) {start length : Nat}
    (hb : start + length ≤ s.n.toNat) (dir : Direction) (k : Nat) :
    ∃ b q, s.rangeRotate start length k dir =
        .ok (s.redrawn start (rotate dir ((s.pix.drop start).take length) k) b q) ∧
      Redraw s start (rotate dir ((s.pix.drop start).take length) k) b q := by
  have hl := rotated_length (hb.trans_eq h.pix_length.symm) dir k
  rw [rangeRotate_eq h hb]
  split
  · next h0 =>
    rw [List.eq_nil_of_length_eq_zero (hl.trans h0)]
    obtain ⟨e, hr⟩ := redraw_nil h start
    exact ⟨_, _, congrArg _ e, hr⟩
  · exact ⟨_, _, rfl, redraw_withPix h (by omega)⟩

/-- Replacing every pixel, and with it every slice: the header and what lies beyond the buffer stay. -/
theorem writeSlices_all {s : State} (h : BufferInv s) {cs : List Color} (hlen : cs.length = s.n.toNat) :
    ∃ b q, s.writeSlices 0 cs = .ok { s with pix := cs, buf := b, txq := q } ∧ SameInFlight s.txq q ∧
      BufferInv { s with pix := cs, buf := b, txq := q } ∧
      ∀ a, a < s.params.headerBytes ∨ s.bufLength ≤ a → b.read a = s.buf.read a := by
  obtain ⟨b, q, e, hr⟩ := writeSlices_redraws (start := 0) (cs := cs) h (by omega)
  have hall : s.redrawn 0 cs b q = { s with pix := cs, buf := b, txq := q } := by
    rw [State.redrawn, splice_all _ _ (hlen.trans h.pix_length.symm)]
  refine ⟨b, q, by rw [e, hall], hr.inFlight, hall ▸ hr.buffer, fun a ha => hr.outside a ?_⟩
  unfold State.slice
  unfold State.bufLength at ha
  omega

/-- The slice of a pixel in a buffer that meets the invariant. -/
theorem BufferInv.readBytes_slice {s : State} (h : BufferInv s) {i : Nat} (hi : i < s.n.toNat) :
    s.buf.readBytes (s.slice i) 96 = encodeColor s.params (s.pix.getD i Color.black) s.tp := by
  obtain ⟨-, -, hs, -⟩ := h
  exact hs i hi

/-- A slice moves with its pixel: in two buffers of one session the slices of equal pixels are equal. -/
theorem readBytes_slice_of_pix_eq {s t : State} (hs : BufferInv s) (ht : BufferInv t)
    (hn : t.n = s.n) (hp : t.params = s.params) (htp : t.tp = s.tp) {i j : Nat} (hi : i < s.n.toNat)
    (hj : j < s.n.toNat) (h : t.pix[i]? = s.pix[j]?) :
    t.buf.readBytes (t.slice i) 96 = s.buf.readBytes (s.slice j) 96 := by
  rw [ht.readBytes_slice (by rwa [hn]), hs.readBytes_slice hj, hp, htp, List.getD_eq_getElem?_getD, h,
    List.getD_eq_getElem?_getD]

/-- In one session equal pixels have equal buffers. -/
theorem buf_eq_of_pix_eq {s t : State} (hs : BufferInv s) (ht : BufferInv t) (hp : t.params = s.params)
    (htp : t.tp = s.tp) (h : t.pix = s.pix) : t.buf = s.buf := by
  rw [((bufferInv_iff t).1 ht).1, ((bufferInv_iff s).1 hs).1]
  simp only [State.image, State.blocks, hp, htp, h]

theorem statusWord_ok : statusWord .ok = okWord := rfl

/-- A finished command adds the status OK to its array operations. -/
theorem commit_ok (t : State) : commit (.ok t) = .next { t with rsp := t.rsp ++ [okWord] } := by
  simp [commit, done, State.respond, statusWord_ok]

/-- The lifecycle check of a live state passes (60_exceptions.md R195). -/
theorem check_of_live {s : State} (hl : s.life.live = true) (e r : Host.Outcome State Fault Refusal) :
    (if s.life.live = false then e else r) = r :=
  if_neg (by simp [hl])

/-! ### CB_NEW -/

/-- Settles O33: construction gives the buffer that encodes N blacks. -/
theorem cbNewResult : Obligations.CbNewResult := by
  intro s n t
  refine ⟨fun hl => ?_, fun hl => ?_⟩
  · simp only [exec, execCbNew]
    split
    · next he => exact absurd he hl
    all_goals rfl
  · obtain ⟨hoff, hheader, hslices, -⟩ := bufferInv_withPix (s.setSession n t)
      (List.replicate n.toNat Color.black) (List.length_replicate ..)
    refine ⟨_, s.txq.map Transmission.touch, ?_, sameInFlight_touch s.txq, hoff, hheader, fun i hn => ?_⟩
    · simp only [exec, execCbNew, hl, construct_eq, done, State.respond, List.append_nil, statusWord_ok]
      rfl
    · have hs := hslices i hn
      rw [withPix_pix, List.getD_replicate _ hn] at hs
      exact hs

/-! ### CB_SETCOLOR and CB_SETALL -/

/-- Settles O34: one pixel is redrawn. -/
theorem cbSetColorResult : Obligations.CbSetColorResult := by
  intro s index c
  refine ⟨fun hl => if_pos hl, fun hl hi => (check_of_live hl _ _).trans (if_pos hi),
    fun hs hl hi => ?_⟩
  have h := hs.arrays.buffer hl
  have hp := h.pix_length
  obtain ⟨b, q, e, hr⟩ := writeSlices_redraws (start := index.toNat) (cs := [c]) h hi
  have hpix : splice s.pix index.toNat [c] = s.pix.set index.toNat c :=
    splice_singleton _ _ _ (by omega)
  refine ⟨b, q, ?_, hr.inFlight, ?_, fun a ha => hr.outside a ?_⟩
  · simp only [exec, execCbSetColor, check_of_live hl, Nat.not_le_of_lt hi, if_false,
      State.sliceWrite, e, commit_ok, State.redrawn, hpix]
  · have hslice := hr.buffer.readBytes_slice (i := index.toNat) hi
    rw [State.redrawn, hpix] at hslice
    rw [List.getD_eq_getElem?_getD, List.getElem?_set_self (by omega)] at hslice
    exact hslice
  · rwa [List.length_singleton, show s.slice (index.toNat + 1) = s.slice index.toNat + 96 by
      unfold State.slice; omega]

/-- Settles O35: every pixel is redrawn. -/
theorem cbSetAllResult : Obligations.CbSetAllResult := by
  intro s count cs
  refine ⟨rfl, fun hl => if_pos hl,
    fun hl hn => (check_of_live hl _ _).trans (if_pos (BitVec.toNat_inj.not.2 hn)),
    fun hs hl hn hw => ?_⟩
  subst hn
  have h := hs.arrays.buffer hl
  have hlen : cs.length = s.n.toNat := by simpa [Instr.wellFormed] using hw
  obtain ⟨b, q, e, hq, hb, hout⟩ := writeSlices_all h hlen
  refine ⟨b, q, ?_, hq, fun i hi => hb.readBytes_slice (i := i) hi, hout⟩
  simp only [exec, execCbSetAll, check_of_live hl, ne_eq, not_true, if_false, e, commit_ok,
    Bool.false_eq_true]

/-! ### CB_SHIFTR and CB_SHIFTL -/

theorem shiftErrors_execShift {i : Instr} {dir : Direction} {s : State} {start length steps : BitVec 16}
    (hi : exec i s = execShift dir start length steps s) : ShiftErrors i s start length steps := by
  unfold ShiftErrors
  rw [hi]
  refine ⟨fun hl => if_pos hl, fun hl hn => ?_, fun hl hn hk => ?_⟩
  · have he : shiftError s.n start length steps = some .indexOutOfRange := if_pos hn
    simp only [execShift, check_of_live hl, he]
  · have he : shiftError s.n start length steps = some .invalidArgument :=
      (if_neg (Nat.not_lt_of_le hn)).trans (if_pos hk)
    simp only [execShift, check_of_live hl, he]

/-- A rotation whose operands are valid (41_command_buffer.md R127). -/
theorem execShift_of_valid {s : State} (hl : s.life.live = true) {start length steps : BitVec 16}
    (hn : start.toNat + length.toNat ≤ s.n.toNat) (hk : steps.toNat ≤ length.toNat) (dir : Direction) :
    execShift dir start length steps s =
      commit (s.rangeRotate start.toNat length.toNat steps.toNat dir) := by
  have he : shiftError s.n start length steps = none :=
    (if_neg (Nat.not_lt_of_le hn)).trans (if_neg (Nat.not_lt_of_le hk))
  simp only [execShift, check_of_live hl, he]

theorem execShift_redraws {s : State} (h : BufferInv s) (hl : s.life.live = true)
    {start length steps : BitVec 16} (hn : start.toNat + length.toNat ≤ s.n.toNat)
    (hk : steps.toNat ≤ length.toNat) (dir : Direction) :
    ∃ b q, execShift dir start length steps s =
        .next { s with
          pix := rotateRange dir start.toNat length.toNat steps.toNat s.pix, buf := b, txq := q
          rsp := s.rsp ++ [okWord] } ∧
      Redraw s start.toNat (rotate dir ((s.pix.drop start.toNat).take length.toNat) steps.toNat) b q := by
  obtain ⟨b, q, e, hr⟩ := rangeRotate_redraws h hn dir steps.toNat
  exact ⟨b, q, by rw [execShift_of_valid hl hn hk, e, commit_ok]; rfl, hr⟩

/-- The bytes outside the range's slices. -/
theorem Redraw.outside_range {s : State} {start length k : Nat} {dir : Direction} {b : Memory}
    {q : List Transmission} (h : BufferInv s) (hn : start + length ≤ s.n.toNat)
    (hr : Redraw s start (rotate dir ((s.pix.drop start).take length) k) b q) {a : Nat}
    (ha : a < s.slice start ∨ s.slice (start + length) ≤ a) : b.read a = s.buf.read a :=
  hr.outside a (by rwa [rotated_length (hn.trans_eq h.pix_length.symm)])

/-- The slice of the pixel that came from `j` to `i`. -/
theorem Redraw.slice_moves {s : State} {start : Nat} {cs : List Color} {b : Memory}
    {q : List Transmission} (h : BufferInv s) (hr : Redraw s start cs b q) {i j : Nat}
    (hi : i < s.n.toNat) (hj : j < s.n.toNat) (hp : (splice s.pix start cs)[i]? = s.pix[j]?) :
    b.readBytes (s.slice i) 96 = s.buf.readBytes (s.slice j) 96 :=
  readBytes_slice_of_pix_eq (t := s.redrawn start cs b q) h hr.buffer rfl rfl rfl hi hj hp

section
variable {s : State} {start length k : Nat} {b : Memory} {q : List Transmission}
  (h : BufferInv s) (hn : start + length ≤ s.n.toNat) (hk : k ≤ length)
include h hn hk

theorem Redraw.movedRight (hr : Redraw s start (rotate .right ((s.pix.drop start).take length) k) b q) :
    MovedRight s start length k (rotateRange .right start length k s.pix) b := by
  have hp := hn.trans_eq h.pix_length.symm
  refine ⟨rotateRange_length hp _ k, fun j hj => ?_, fun i => rotateRange_getElem?_outside hp _ k,
    fun a => hr.outside_range h hn⟩
  have hm : (j + k) % length < length := Nat.mod_lt _ (Nat.zero_lt_of_lt hj)
  have hpix := rotateRange_right_getElem? hp hk hj
  exact ⟨hpix, hr.slice_moves h (by omega) (by omega) hpix⟩

theorem Redraw.movedLeft (hr : Redraw s start (rotate .left ((s.pix.drop start).take length) k) b q) :
    MovedLeft s start length k (rotateRange .left start length k s.pix) b := by
  have hp := hn.trans_eq h.pix_length.symm
  refine ⟨rotateRange_length hp _ k, fun j hj => ?_, fun i => rotateRange_getElem?_outside hp _ k,
    fun a => hr.outside_range h hn⟩
  have hm : (j + k) % length < length := Nat.mod_lt _ (Nat.zero_lt_of_lt hj)
  have hpix := rotateRange_left_getElem? hp hk hj
  exact ⟨hpix, hr.slice_moves h (by omega) (by omega) hpix⟩

end

/-- Settles O36. -/
theorem cbShiftRightResult : Obligations.CbShiftRightResult := by
  intro s start length steps
  refine ⟨shiftErrors_execShift (exec_cbShiftR ..), fun hs hl hn hk => ?_⟩
  have h := hs.arrays.buffer hl
  obtain ⟨b, q, e, hr⟩ := execShift_redraws h hl hn hk .right
  exact ⟨_, b, q, e, hr.inFlight, hr.movedRight h hn hk⟩

/-- Settles O37. -/
theorem cbShiftLeftResult : Obligations.CbShiftLeftResult := by
  intro s start length steps
  refine ⟨shiftErrors_execShift (exec_cbShiftL ..), fun hs hl hn hk => ?_⟩
  have h := hs.arrays.buffer hl
  obtain ⟨b, q, e, hr⟩ := execShift_redraws h hl hn hk .left
  exact ⟨_, b, q, e, hr.inFlight, hr.movedLeft h hn hk⟩

end Sys2Proof.Machine
end

section
/-! PROOFS. The laws of rotation (41_command_buffer.md R130). Equal pixels have equal buffers in one session, so
that each law is one on sequences. -/

namespace Sys2Proof.Machine

/-- The state `t` is in the session of `s`, with the pixels `p` and the buffer that encodes them. -/
structure Repainted (s : State) (p : List Color) (t : State) : Prop where
  params : t.params = s.params
  life : t.life = s.life
  n : t.n = s.n
  tp : t.tp = s.tp
  pix : t.pix = p
  buffer : BufferInv t

theorem Repainted.trans {s t u : State} {p p' : List Color} (h : Repainted s p t)
    (h' : Repainted t p' u) : Repainted s p' u :=
  ⟨h'.params.trans h.params, h'.life.trans h.life, h'.n.trans h.n, h'.tp.trans h.tp, h'.pix, h'.buffer⟩

theorem BufferInv.repainted_self {s : State} (h : BufferInv s) : Repainted s s.pix s :=
  ⟨rfl, rfl, rfl, rfl, rfl, h⟩

/-- The pixels fix the buffer: what is to be shown of two states of a session is that their pixels agree. -/
theorem Repainted.arrays_eq {s t u : State} {p p' : List Color} (ht : Repainted s p t)
    (hu : Repainted s p' u) (h : p' = p) : u.pix = t.pix ∧ u.buf = t.buf := by
  have hpix : u.pix = t.pix := by rw [hu.pix, ht.pix, h]
  exact ⟨hpix, buf_eq_of_pix_eq ht.buffer hu.buffer (hu.params.trans ht.params.symm)
    (hu.tp.trans ht.tp.symm) hpix⟩

/-- A range of the strip in a live state, which a rotation accepts (41_command_buffer.md R127). -/
structure ValidRange (s : State) (start length : BitVec 16) : Prop where
  buffer : BufferInv s
  live : s.life.live = true
  inside : start.toNat + length.toNat ≤ s.n.toNat

section
variable {s t u v : State} {start length k m : BitVec 16} (h : ValidRange s start length)
  (hk : k.toNat ≤ length.toNat)
include h

theorem ValidRange.inside_pix : start.toNat + length.toNat ≤ s.pix.length :=
  h.inside.trans_eq h.buffer.pix_length.symm

theorem ValidRange.repainted {p : List Color} (ht : Repainted s p t) : ValidRange t start length :=
  ⟨ht.buffer, by rw [ht.life, h.live], by rw [ht.n]; exact h.inside⟩

include hk

theorem repainted_of_execShift {dir : Direction} (e : execShift dir start length k s = .next t) :
    Repainted s (rotateRange dir start.toNat length.toNat k.toNat s.pix) t := by
  obtain ⟨b, q, e', hr⟩ := execShift_redraws h.buffer h.live h.inside hk dir
  rw [e] at e'
  cases e'
  exact ⟨rfl, rfl, rfl, rfl, rfl, hr.buffer⟩

theorem repainted_of_two_shifts {d d' : Direction} (hm : m.toNat ≤ length.toNat)
    (ht : execShift d start length k s = .next t) (hu : execShift d' start length m t = .next u) :
    Repainted s (rotateRange d' start.toNat length.toNat m.toNat
      (rotateRange d start.toNat length.toNat k.toNat s.pix)) u := by
  have h1 := repainted_of_execShift h hk ht
  have h2 := repainted_of_execShift (h.repainted h1) hm hu
  rw [h1.pix] at h2
  exact h1.trans h2

/-- R130 (b): Left by `k` is Right by `length - k`. -/
theorem execShift_left_eq_right :
    execShift .left start length k s = execShift .right start length (length - k) s := by
  have hsub : (length - k).toNat = length.toNat - k.toNat := BitVec.toNat_sub_of_le hk
  have hrot := rotateLeft_eq_rotateRight ((s.pix.drop start.toNat).take length.toNat) (k := k.toNat)
    (by rwa [range_length h.inside_pix])
  rw [range_length h.inside_pix] at hrot
  rw [execShift_of_valid h.live h.inside hk, execShift_of_valid h.live h.inside (by omega),
    rangeRotate_eq h.buffer h.inside, rangeRotate_eq h.buffer h.inside, hsub, rotate, rotate, hrot]

/-- R130 (d): the colours of the range are permuted, and nothing outside it changes. -/
theorem execShift_permutes {dir : Direction} (e : execShift dir start length k s = .next t) :
    List.Perm ((t.pix.drop start.toNat).take length.toNat) ((s.pix.drop start.toNat).take length.toNat) ∧
      (∀ a, a < start.toNat ∨ start.toNat + length.toNat ≤ a → t.pix[a]? = s.pix[a]?) ∧
      ∀ a, a < s.slice start.toNat ∨ s.slice (start.toNat + length.toNat) ≤ a →
        t.buf.read a = s.buf.read a := by
  have hp := h.inside_pix
  obtain ⟨b, q, e', hr⟩ := execShift_redraws h.buffer h.live h.inside hk dir
  rw [e] at e'
  cases e'
  refine ⟨?_, fun a => rotateRange_getElem?_outside hp dir _, fun a => hr.outside_range h.buffer h.inside⟩
  rw [rotateRange_range hp]
  exact rotate_perm ..

/-- R130 (e): two rotations in one direction compose. -/
theorem execShift_composes {dir : Direction} {r : BitVec 16} (hm : m.toNat ≤ length.toNat)
    (hl : 1 ≤ length.toNat) (hr : r.toNat = (k.toNat + m.toNat) % length.toNat)
    (ht : execShift dir start length k s = .next t) (hu : execShift dir start length m t = .next u)
    (hv : execShift dir start length r s = .next v) : v.pix = u.pix ∧ v.buf = u.buf := by
  have hrl : r.toNat < length.toNat := hr ▸ Nat.mod_lt _ hl
  refine (repainted_of_two_shifts h hk hm ht hu).arrays_eq (repainted_of_execShift h hrl.le hv) ?_
  rw [hr, rotateRange_compose h.inside_pix dir hk hm hl]

end

/-- Settles O38: a law on PIX is one on sequences, and BUF follows PIX. -/
theorem lawsOfRotation : Obligations.LawsOfRotation := by
  intro s start length k hs hl hn hk
  have h : ValidRange s start length := ⟨hs.arrays.buffer hl, hl, hn⟩
  have hself := h.buffer.repainted_self
  refine ⟨fun t u ht hu => ?_, fun t u ht hu => ?_, execShift_left_eq_right h hk, ?_, ?_⟩
  · exact hself.arrays_eq (repainted_of_two_shifts h hk (d := .right) (d' := .left) hk ht hu)
      (rotateRange_left_right h.inside_pix hk)
  · exact hself.arrays_eq (repainted_of_two_shifts h hk (d := .left) (d' := .right) hk ht hu)
      (rotateRange_right_left h.inside_pix k.toNat)
  · rintro t (e | e)
    · exact ⟨hs.exec e, execShift_permutes h hk (dir := .right) e⟩
    · exact ⟨hs.exec e, execShift_permutes h hk (dir := .left) e⟩
  · exact fun k2 k3 t u v hk2 hl1 hk3 =>
      ⟨execShift_composes h hk (dir := .right) hk2 hl1 hk3,
        execShift_composes h hk (dir := .left) hk2 hl1 hk3⟩

end Sys2Proof.Machine
end

section
/-! PROOFS. The CommandBuffer commands that call the transmitter (41_command_buffer.md R132, R134, R136). -/

namespace Sys2Proof.Machine

open Sys2Proof.Claims

/-! ### CB_SEND and CB_TURNOFF -/

/-- A send of a buffer that meets the invariant: what `sendAndFinish_frame` leaves open is the buffer's
bytes. -/
theorem sendAndFinish_eq {s : State} (h : BufferInv s) (wait : Bool) :
    ∃ pl q d, sendAndFinish s wait = .next
      { s with
        txPlan := pl, txq := q, strip := d, txSerial := s.txSerial + 1
        txCalls := s.txCalls ++ [.send wait (bufBytes s)]
        txCall := if s.callReturns then none else some (.send wait (bufBytes s))
        rsp := if s.callReturns then s.rsp ++ [okWord] else s.rsp } := by
  obtain ⟨pl, q, d, e⟩ := answer_frame ((s.startTransmission s.image).present (.send wait s.image))
    (if wait then [s.txSerial] else [])
  have hc : ((s.startTransmission s.image).present (.send wait s.image)).callReturns = s.callReturns := rfl
  refine ⟨pl, q, d, ?_⟩
  rw [sendAndFinish, txSend_eq h, e, hc, h.bufBytes_eq]
  cases s.callReturns with
  | false => rfl
  | true => simp [afterCall, done, State.respond, statusWord_ok]

theorem exec_cbSend_of_live {s : State} (hl : s.life.live = true) (wait : Bool) :
    exec (.cbSend wait) s = sendAndFinish s wait :=
  check_of_live hl _ _

/-- CB_TURNOFF sends what its write has made of the buffer (41_command_buffer.md R134). -/
theorem exec_cbTurnOff_of_ok {s u : State} (hl : s.life.live = true)
    (hu : s.writeSlices 0 (List.replicate s.n.toNat Color.black) = .ok u) {wait : Bool} :
    exec (.cbTurnOff wait) s = sendAndFinish u wait :=
  (check_of_live hl _ _).trans (by rw [hu])

/-- A call that returns at once, with nothing completed, leaves its transmission in flight. -/
theorem sent_of_plan_nil {s : State} (h : s.txPlan = []) (b : List Byte) :
    s.sent false b = ((s.startTransmission b).present (.send false b)).returned := by
  have hp : ((s.startTransmission b).present (.send false b)).txPlan = [] := h
  unfold State.sent State.answer
  rw [hp]
  rfl

/-- Settles O39: the bytes handed over are those of `sendAndFinish_eq`. -/
theorem cbSendResult : Obligations.CbSendResult := by
  intro s wait
  refine ⟨fun hl => if_pos hl, fun hs hl => ?_⟩
  have h := hs.arrays.buffer hl
  obtain ⟨pl, q, d, e⟩ := sendAndFinish_eq h wait
  rw [exec_cbSend_of_live hl]
  refine ⟨?_, ⟨_, e, rfl, rfl, rfl, rfl, rfl⟩, ?_⟩
  · rw [h.bufBytes_eq, image_length, h.pix_length]
    ring
  · rintro rfl hplan
    obtain ⟨hq, hd⟩ := sendAndFinish_sent_image h e
    rw [sent_of_plan_nil hplan] at hq hd
    refine ⟨_, e, hd, ?_⟩
    rw [hq, h.bufBytes_eq]
    simp [Transmission.overlap, Function.comp_def]

/-- Settles O41: every pixel is redrawn black, and then the new buffer is sent. -/
theorem cbTurnOffResult : Obligations.CbTurnOffResult := by
  intro s wait
  refine ⟨fun hl => if_pos hl, fun hs hl => ?_⟩
  have h := hs.arrays.buffer hl
  obtain ⟨b, q, e, -, hb, hout⟩ := writeSlices_all h (List.length_replicate (a := Color.black))
  obtain ⟨pl, q', d, e'⟩ := sendAndFinish_eq hb wait
  refine ⟨_, b, (exec_cbTurnOff_of_ok hl e).trans e', rfl, fun i hi => ?_, hout, rfl, rfl, rfl⟩
  have hslice := hb.readBytes_slice (i := i) hi
  rwa [List.getD_replicate _ hi] at hslice

/-- Settles O42: the write of CB_SETALL answers nothing itself. -/
theorem turnOffIsSetAllThenSend : Obligations.TurnOffIsSetAllThenSend := by
  intro s u wait _ hl hu
  have hset : exec (.cbSetAll s.n (List.replicate s.n.toNat Color.black) false) s =
      commit (s.writeSlices 0 (List.replicate s.n.toNat Color.black)) :=
    (check_of_live hl _ _).trans (if_neg (not_not.2 rfl))
  rw [hset] at hu
  obtain ⟨v, hv, rfl⟩ := commit_next hu
  have hsame : v.rsp = s.rsp ∧ v.life = s.life := by
    obtain ⟨-, rfl⟩ | ⟨-, p, b, rfl⟩ := writeSlices_frame hv <;> exact ⟨rfl, rfl⟩
  obtain ⟨hrsp, hlife⟩ := hsame
  have hback : { v.respond [] .ok with rsp := s.rsp } = v := by rw [← hrsp]; rfl
  rw [hback, exec_cbTurnOff_of_ok hl hv, exec_cbSend_of_live (by rw [hlife, hl])]

/-! ### CB_RELEASE -/

/-- Settles O43: in a live state what `cbRelease_frame` says, for either answer. -/
theorem cbReleaseResult : Obligations.CbReleaseResult := by
  intro s
  refine ⟨fun hl => ?_, fun hl => ?_, fun hl hc => ?_, fun hl hc => ?_⟩
  · simp only [exec, execCbRelease, hl]
  · simp only [exec, execCbRelease, hl, done, State.respond, List.append_nil, statusWord_ok]
  all_goals
    obtain ⟨t, ht⟩ := givesNext_cbRelease s
    obtain ⟨pl, q, d, rfl⟩ := cbRelease_frame hl ht
    rw [hc] at ht
  · exact ⟨_, ht, rfl, rfl, rfl, rfl⟩
  · exact ⟨_, ht, rfl, rfl⟩

end Sys2Proof.Machine
end

section
/-! PROOFS. The wiring of the grid and the GridMapper commands (42_grid_mapper.md R151 to R155). -/

namespace Sys2Proof.Machine

open Sys2Proof.Claims

/-! ### The strip index as a row and a column -/

/-- The column of the strip row `y` that cell `(x, y)` stands at: mirrored or as it is
(42_grid_mapper.md R151). -/
def stripColumn (mode : WiringMode) (y width x : Nat) : Nat :=
  if reversed mode y then width - 1 - x else x

theorem toStripIndex_eq (x y width : Nat) (mode : WiringMode) :
    toStripIndex x y width mode = y * width + stripColumn mode y width x := by
  unfold toStripIndex stripColumn
  split <;> exact Nat.add_comm ..

section
variable {x width : Nat} (hx : x < width) (y : Nat) (mode : WiringMode)
include hx

theorem stripColumn_lt : stripColumn mode y width x < width := by
  unfold stripColumn
  split <;> omega

/-- Mirroring a row twice gives the row (42_grid_mapper.md R153 (b)). -/
theorem stripColumn_stripColumn : stripColumn mode y width (stripColumn mode y width x) = x := by
  unfold stripColumn
  split <;> omega

theorem toStripIndex_mod : toStripIndex x y width mode % width = stripColumn mode y width x := by
  rw [toStripIndex_eq, Nat.mul_add_mod_of_lt (stripColumn_lt hx y mode)]

theorem toStripIndex_div : toStripIndex x y width mode / width = y := by
  have hw : 0 < width := Nat.zero_lt_of_lt hx
  rw [toStripIndex_eq, Nat.mul_comm, Nat.mul_add_div hw, Nat.div_eq_of_lt (stripColumn_lt hx y mode),
    Nat.add_zero]

/-- The wiring is its own inverse (42_grid_mapper.md R153 (b)). -/
theorem toStripIndex_toStripIndex :
    toStripIndex (toStripIndex x y width mode % width) (toStripIndex x y width mode / width) width mode =
      x + y * width := by
  rw [toStripIndex_mod hx, toStripIndex_div hx, toStripIndex_eq, stripColumn_stripColumn hx, Nat.add_comm]

end

/-- Settles O44: in a row, (a) the column stays below the width, (b) a mirror is its own inverse, and
(c) to (e) the table says which rows have one. -/
theorem stripIndexProperties : Obligations.StripIndexProperties := by
  intro mode x y width height hx hy
  have hrow := toStripIndex_lt hx y mode
  refine ⟨⟨?_, hrow⟩, ?_, toStripIndex_toStripIndex hx y mode, ?_, ?_, ?_, ?_, ?_⟩
  · rw [toStripIndex_eq]
    exact Nat.le_add_right ..
  · calc toStripIndex x y width mode < (y + 1) * width := hrow
      _ ≤ height * width := Nat.mul_le_mul_right _ hy
      _ = width * height := Nat.mul_comm ..
  · rintro rfl
    rfl
  · rintro rfl
    simp [toStripIndex, reversed]
  · rintro rfl
    simp [toStripIndex, reversed]
  · rintro rfl
    rfl
  · rintro rfl
    have hc := stripColumn_lt hx y mode
    rw [toStripIndex_eq]
    omega

/-! ### Wiring modes as numbers -/

/-- Modes 0 to 3 are recognized (10_state.md R25). -/
theorem exists_wiringMode {m : BitVec 8} (h : m.toNat ≤ 3) : ∃ mode, WiringMode.ofByte m = some mode :=
  Option.ne_none_iff_exists'.1 fun hn => Nat.not_lt_of_le h (wiringMode_ofByte_eq_none.1 hn)

/-- The rows that a recognized mode mirrors are those of the table (42_grid_mapper.md R151). -/
theorem reversed_iff_mirrored {m : BitVec 8} {mode : WiringMode} (h : WiringMode.ofByte m = some mode)
    (y : Nat) : reversed mode y = true ↔ mirrored m.toNat y := by
  unfold WiringMode.ofByte at h
  split at h <;> cases h
  all_goals
    next hm => simp [reversed, mirrored, hm]

/-- The strip index is that of the table (42_grid_mapper.md R151). -/
theorem isStripIndex_toStripIndex {m : BitVec 8} {mode : WiringMode} (h : WiringMode.ofByte m = some mode)
    (x y width : Nat) : IsStripIndex m.toNat x y width (toStripIndex x y width mode) := by
  unfold IsStripIndex
  rw [← reversed_iff_mirrored h]
  exact ⟨fun hr => if_pos hr, fun hr => if_neg hr⟩

/-- The direction bit of a row is set exactly where the table mirrors the row (42_grid_mapper.md R154). -/
theorem rowDirection_bit {m : BitVec 8} {mode : WiringMode} (h : WiringMode.ofByte m = some mode) (y : Nat) :
    (mirrored m.toNat y → (rowDirection mode y).bit.toNat = 1) ∧
      (¬ mirrored m.toNat y → (rowDirection mode y).bit.toNat = 0) := by
  rw [← reversed_iff_mirrored h, rowDirection]
  cases reversed mode y <;> decide

/-! ### GM_INDEX -/

theorem indexWord_eq_ofNat {index : Nat} (h : index < 2 ^ 16) :
    indexWord index = BitVec.ofNat 64 (0x01 * 2 ^ 56 + index) := by
  rw [← indexWord_toNat h, BitVec.ofNat_toNat, BitVec.setWidth_eq]

/-- Settles O45. -/
theorem gmIndexResult : Obligations.GmIndexResult := by
  intro s x y width height mode
  refine ⟨fun hm => ?_, fun hm hxy => ?_, fun hm hx hy => ?_⟩
  · simp only [exec, execGmIndex, wiringMode_ofByte_eq_none.2 hm]
  all_goals obtain ⟨w, hw⟩ := exists_wiringMode hm
  · simp only [exec, execGmIndex, hw, hxy, if_true]
  · have hi := toStripIndex_le w hx hy
    refine ⟨_, isStripIndex_toStripIndex hw x.toNat y.toNat width.toNat, ?_⟩
    rw [← indexWord_eq_ofNat (by omega)]
    simp [exec, execGmIndex, hw, hx, hy, done, State.respond, statusWord_ok]

/-! ### GM_SHIFT -/

theorem shiftOpWord_eq_ofNat (op : ShiftOp) (hs : op.start < 2 ^ 16) (hl : op.length < 2 ^ 16)
    (hk : op.steps < 2 ^ 16) :
    shiftOpWord op = BitVec.ofNat 64 (0x04 * 2 ^ 56 + op.start * 2 ^ 40 + op.length * 2 ^ 24 +
      op.steps * 2 ^ 8 + op.direction.bit.toNat) := by
  rw [← shiftOpWord_toNat op hs hl hk, BitVec.ofNat_toNat, BitVec.setWidth_eq]

theorem toStripShift_length (mode : WiringMode) (rows width steps : Nat) :
    (toStripShift mode rows width steps).length = rows := by
  rw [toStripShift, List.length_map, List.length_range]

theorem toStripShift_getElem? (mode : WiringMode) {rows y : Nat} (hy : y < rows) (width steps : Nat) :
    (toStripShift mode rows width steps)[y]? = some ⟨y * width, width, rowDirection mode y, steps⟩ := by
  rw [toStripShift, List.getElem?_map, List.getElem?_range hy, Option.map_some]

/-- Settles O46. -/
theorem gmShiftResult : Obligations.GmShiftResult := by
  intro s mode rows width steps
  refine ⟨fun hm => ?_, fun hm => ?_⟩
  · simp only [exec, execGmShift, wiringMode_ofByte_eq_none.2 hm]
  · obtain ⟨w, hw⟩ := exists_wiringMode hm
    refine ⟨(toStripShift w rows.toNat width.toNat steps.toNat).map shiftOpWord, ?_, fun y hy => ?_, ?_⟩
    · rw [List.length_map, toStripShift_length]
    · obtain ⟨hleft, hright⟩ := rowDirection_bit hw y
      have hlen := byte_le width
      have hstart : y * width.toNat ≤ 255 * 255 := Nat.mul_le_mul (hy.le.trans (byte_le rows)) hlen
      refine ⟨_, hleft, hright, ?_⟩
      rw [List.getElem?_map, toStripShift_getElem? w hy, Option.map_some,
        shiftOpWord_eq_ofNat _ (by dsimp only; omega) (by dsimp only; omega) steps.isLt]
    · simp only [exec, execGmShift, hw, done, State.respond, statusWord_ok]

end Sys2Proof.Machine
end

section
/-! PROOFS. The decomposition of a shift into rows (42_grid_mapper.md R154, R156; 43_display.md R172): what the
shift operations make of the strip, read row by row and then through the wiring. -/

namespace Sys2Proof.Machine

/-! ### The rows of the strip under shift operations -/

theorem applyRows_append (p : List Color) (a b : List ShiftOp) :
    applyRows p (a ++ b) = applyRows (applyRows p a) b := by
  induction a generalizing p with
  | nil => rfl
  | cons op a ih => exact ih _

/-- The operations of one more row rotate that row after the others. -/
theorem applyRows_toStripShift_succ (p : List Color) (mode : WiringMode) (rows width steps : Nat) :
    applyRows p (toStripShift mode (rows + 1) width steps) =
      rotateRange (rowDirection mode rows) (rows * width) width steps
        (applyRows p (toStripShift mode rows width steps)) := by
  rw [toStripShift, List.range_succ, List.map_append, applyRows_append]
  rfl

section
variable {p : List Color} {rows width : Nat} (mode : WiringMode) (steps : Nat)

theorem applyRows_toStripShift_length (h : width * rows ≤ p.length) :
    (applyRows p (toStripShift mode rows width steps)).length = p.length :=
  applyRows_length p _ fun _ hop => (end_le_of_mem_toStripShift hop).trans h

/-- The row after the first `rows` lies in the strip, and their operations keep its length. -/
theorem nextRow_le_length (h : width * (rows + 1) ≤ p.length) :
    rows * width + width ≤ (applyRows p (toStripShift mode rows width steps)).length := by
  rw [Nat.mul_succ] at h
  rw [applyRows_toStripShift_length mode steps (by omega), Nat.mul_comm]
  exact h

/-- The operations of the first rows leave the pixels behind them. -/
theorem applyRows_toStripShift_getElem?_behind (h : width * rows ≤ p.length) {i : Nat}
    (hi : rows * width ≤ i) : (applyRows p (toStripShift mode rows width steps))[i]? = p[i]? := by
  induction rows with
  | zero => rfl
  | succ rows ih =>
    have hrow := nextRow_le_length mode steps h
    rw [Nat.mul_succ] at h
    rw [Nat.succ_mul] at hi
    rw [applyRows_toStripShift_succ, rotateRange_getElem?_outside hrow _ _ (.inr hi)]
    exact ih (by omega) (by omega)

theorem applyRows_toStripShift_drop (h : width * rows ≤ p.length) :
    (applyRows p (toStripShift mode rows width steps)).drop (rows * width) = p.drop (rows * width) :=
  List.ext_getElem? fun i => by
    rw [List.getElem?_drop, List.getElem?_drop]
    exact applyRows_toStripShift_getElem?_behind mode steps h (Nat.le_add_right ..)

/-- In row `y` the operations of all rows do what that row's operation does alone: the rows before it end
where it starts, and the rows after it start where it ends. -/
theorem applyRows_toStripShift_row (h : width * rows ≤ p.length) {y c : Nat} (hy : y < rows)
    (hc : c < width) :
    (applyRows p (toStripShift mode rows width steps))[y * width + c]? =
      (rotateRange (rowDirection mode y) (y * width) width steps p)[y * width + c]? := by
  induction rows with
  | zero => cases hy
  | succ rows ih =>
    have hrow := nextRow_le_length mode steps h
    have hp : width * rows + width ≤ p.length := h
    rw [applyRows_toStripShift_succ]
    obtain hlt | rfl := Nat.lt_succ_iff_lt_or_eq.1 hy
    · have hend : y * width + width ≤ rows * width := Nat.succ_mul y width ▸ Nat.mul_le_mul_right width hlt
      rw [rotateRange_getElem?_outside hrow _ _ (.inl (by omega))]
      exact ih (by omega) hlt
    · rw [rotateRange_getElem?_inside hrow _ _ hc,
        rotateRange_getElem?_inside (by rwa [Nat.mul_comm]) _ _ hc,
        applyRows_toStripShift_drop mode steps (by omega)]

end

/-! ### The rows read through the wiring -/

/-- In a mirrored row the column that `x + k` stands at comes from the column that `x` stands at: `k` columns
to the right of it. -/
theorem mirror_add_mod {x k width : Nat} (hx : x < width) (hk : k ≤ width) :
    (width - 1 - (x + k) % width + k) % width = width - 1 - x := by
  by_cases hlt : x + k < width
  · rw [Nat.mod_eq_of_lt hlt, Nat.mod_eq_of_lt (by omega)]
    omega
  · have hmod : (x + k) % width = x + k - width := by
      rw [Nat.mod_eq_sub_mod (by omega), Nat.mod_eq_of_lt (by omega)]
    rw [hmod, Nat.mod_eq_sub_mod (by omega), Nat.mod_eq_of_lt (by omega)]
    omega

/-- A row shifted in its own direction moves right by `k` when it is read through the wiring
(42_grid_mapper.md R156). -/
theorem rotateRange_toStripIndex {p : List Color} {width y : Nat} (h : y * width + width ≤ p.length)
    (mode : WiringMode) {x k : Nat} (hx : x < width) (hk : k ≤ width) :
    (rotateRange (rowDirection mode y) (y * width) width k p)[toStripIndex ((x + k) % width) y width mode]? =
      p[toStripIndex x y width mode]? := by
  have hmod : (x + k) % width < width := Nat.mod_lt _ (Nat.zero_lt_of_lt hx)
  rw [toStripIndex_eq, toStripIndex_eq, rowDirection, stripColumn, stripColumn]
  cases reversed mode y with
  | false => exact rotateRange_right_getElem? h hk hx
  | true =>
    have hleft := rotateRange_left_getElem? h hk (show width - 1 - (x + k) % width < width by omega)
    rwa [mirror_add_mod hx hk] at hleft

/-- All rows shifted: the picture on the strip moves right by `k` inside each row (42_grid_mapper.md R156). -/
theorem applyRows_toStripIndex {p : List Color} {rows width : Nat} (h : width * rows ≤ p.length)
    (mode : WiringMode) {x y k : Nat} (hx : x < width) (hy : y < rows) (hk : k ≤ width) :
    (applyRows p (toStripShift mode rows width k))[toStripIndex ((x + k) % width) y width mode]? =
      p[toStripIndex x y width mode]? := by
  have hmod : (x + k) % width < width := Nat.mod_lt _ (Nat.zero_lt_of_lt hx)
  have hrow : y * width + width ≤ p.length :=
    calc y * width + width = width * (y + 1) := by ring
      _ ≤ width * rows := Nat.mul_le_mul_left _ hy
      _ ≤ p.length := h
  have hmove := rotateRange_toStripIndex hrow mode hx hk
  rw [toStripIndex_eq] at hmove ⊢
  rwa [applyRows_toStripShift_row mode k h hy (stripColumn_lt hmod y mode)]

/-! ### DISP_SHIFTR -/

/-- Shift operations on ranges of the strip go through, and their effect on the pixels. -/
theorem rotateRows_pix {s : State} (h : BufferInv s) {ops : List ShiftOp}
    (hb : ∀ op ∈ ops, op.start + op.length ≤ s.n.toNat) :
    ∃ u, s.rotateRows ops = .ok u ∧ u.pix = applyRows s.pix ops := by
  refine ⟨_, rotateRows_eq h hb, ?_⟩
  split
  · next h0 => exact (applyRows_of_lengths_zero _ _ h0).symm
  · exact withPix_pix ..

/-- DISP_SHIFTR that passes its checks sends what the rotations have made of the buffer
(43_display.md R172). -/
theorem exec_dispShiftR_of_ok {s u : State} {mode : WiringMode} {steps : BitVec 16}
    (hl : s.life = .dispLive) (hm : WiringMode.ofByte s.mode = some mode)
    (hk : s.h.toNat = 0 ∨ steps.toNat ≤ s.w.toNat)
    (hu : s.rotateRows (toStripShift mode s.h.toNat s.w.toNat steps.toNat) = .ok u) (wait : Bool) :
    exec (.dispShiftR steps wait) s = sendAndFinish u wait := by
  have hpass : ¬ (1 ≤ s.h.toNat ∧ s.w.toNat < steps.toNat) := by omega
  simp only [exec, execDispShiftR, hl, hm, hu, hpass, ne_eq, not_true, if_false]

/-- The pixels after DISP_SHIFTR are those its shift operations give. -/
theorem dispShiftR_pix {s t : State} {mode : WiringMode} {steps : BitVec 16} {wait : Bool} (hs : Inv s)
    (hl : s.life = .dispLive) (hm : WiringMode.ofByte s.mode = some mode)
    (hk : s.h.toNat = 0 ∨ steps.toNat ≤ s.w.toNat) (e : exec (.dispShiftR steps wait) s = .next t) :
    t.pix = applyRows s.pix (toStripShift mode s.h.toNat s.w.toNat steps.toNat) := by
  obtain ⟨hbuf, hn, -⟩ := hs.arrays.displayInv (not_not.2 hl)
  obtain ⟨u, hu, hpix⟩ := rotateRows_pix hbuf fun op hop =>
    (end_le_of_mem_toStripShift hop).trans_eq hn.symm
  rw [exec_dispShiftR_of_ok hl hm hk hu] at e
  obtain ⟨b, pl, q, d, rfl⟩ := sendAndFinish_frame e
  exact hpix

/-- Settles O51: the pixels are those of the shift operations, which move the picture right row by row. -/
theorem shiftMovesThePictureRight : Obligations.ShiftMovesThePictureRight := by
  intro s t mode steps wait hs hl hm hk e x y hx hy
  obtain ⟨hbuf, hn, -⟩ := hs.arrays.displayInv (not_not.2 hl)
  rw [dispShiftR_pix hs hl hm (.inr hk) e]
  exact applyRows_toStripIndex (hn.symm.trans hbuf.pix_length.symm).le mode hx hy hk

end Sys2Proof.Machine
end

section
/-! PROOFS. The Display commands (43_display.md). DISP_RENDER and DISP_SHIFTR both write every pixel of the
strip, so that the buffer after each of them is that of `writeSlices_all`. -/

namespace Sys2Proof.Machine

open Sys2Proof.Claims

/-! ### DISP_NEW -/

/-- Settles O47: construction gives the buffer that encodes N blacks. -/
theorem dispNewResult : Obligations.DispNewResult := by
  intro s w h m t
  refine ⟨fun hl => ?_, fun hl => ?_⟩
  · simp only [exec, execDispNew]
    split
    · next he => exact absurd he hl
    all_goals rfl
  · obtain ⟨hoff, hheader, hslices, -⟩ := bufferInv_withPix
      ((s.setGeometry w h m).setSession (BitVec.ofNat 16 (w.toNat * h.toNat)) t)
      (List.replicate (BitVec.ofNat 16 (w.toNat * h.toNat)).toNat Color.black) (List.length_replicate ..)
    refine ⟨_, _, s.txq.map Transmission.touch, displaySize_toNat w h, ?_, sameInFlight_touch s.txq, hoff,
      hheader, fun i hn => ?_⟩
    · simp only [exec, execDispNew, hl, construct_eq, done, State.respond, List.append_nil, statusWord_ok]
      rfl
    · have hs := hslices i hn
      rw [withPix_pix, List.getD_replicate _ hn] at hs
      exact hs

/-! ### The cells of the grid -/

/-- A cell of the grid has its address before the end of the grid (43_display.md R168). -/
theorem cellAddress_lt {x y width height : Nat} (hx : x < width) (hy : y < height) :
    x + y * width < width * height :=
  calc x + y * width < width + y * width := Nat.add_lt_add_right hx _
    _ = width * (y + 1) := by ring
    _ ≤ width * height := Nat.mul_le_mul_left _ hy

/-- The table of 42_grid_mapper.md R151 gives no other index than `ToStripIndex`. -/
theorem eq_toStripIndex_of_isStripIndex {m : BitVec 8} {mode : WiringMode}
    (hm : WiringMode.ofByte m = some mode) {x y width index : Nat}
    (h : IsStripIndex m.toNat x y width index) : index = toStripIndex x y width mode := by
  obtain ⟨hmir, hplain⟩ := h
  obtain ⟨hmir', hplain'⟩ := isStripIndex_toStripIndex hm x y width
  by_cases hr : mirrored m.toNat y
  · rw [hmir hr, hmir' hr]
  · rw [hplain hr, hplain' hr]

/-! ### DISP_SETPIXEL -/

/-- In DISP_LIVE the lifecycle check of the Display passes (60_exceptions.md R195). -/
theorem check_of_dispLive {s : State} (hl : s.life = .dispLive) (e r : Host.Outcome State Fault Refusal) :
    (if s.life ≠ .dispLive then e else r) = r :=
  if_neg (not_not.2 hl)

/-- Settles O48: the cell lies in the grid. -/
theorem dispSetPixelResult : Obligations.DispSetPixelResult := by
  intro s x y c
  refine ⟨fun hl => if_pos hl, fun hl hxy => (check_of_dispLive hl _ _).trans (if_pos hxy),
    fun hs hl hx hy => ?_⟩
  obtain ⟨-, hlen⟩ := hs.arrays.grid hl
  have hin : x.toNat + y.toNat * s.w.toNat < s.grid.length :=
    (cellAddress_lt hx hy).trans_eq hlen.symm
  have hpass : ¬ (s.w.toNat ≤ x.toNat ∨ s.h.toNat ≤ y.toNat) := by omega
  refine ⟨s.grid.set (x.toNat + y.toNat * s.w.toNat) c, ?_, List.length_set .., List.getElem?_set_self hin,
    fun a ha => List.getElem?_set_ne ha.symm⟩
  simp only [exec, execDispSetPixel, check_of_dispLive hl, hpass, if_false, writeGrid_eq c hin, commit_ok]
  rfl

/-! ### The permuted grid -/

theorem permute_length (grid : List Color) (width height : Nat) (mode : WiringMode) :
    (permute grid width height mode).length = width * height := by
  rw [permute, List.length_map, List.length_range]

section
variable {grid : List Color} {x y width height : Nat} (hg : grid.length = width * height)
  (hx : x < width) (hy : y < height) (mode : WiringMode)
include hg hx hy

/-- The second form of 43_display.md R169: a place of the strip shows the cell at its strip index. -/
theorem permute_getElem?_place :
    (permute grid width height mode)[x + y * width]? = grid[toStripIndex x y width mode]? := by
  obtain ⟨-, hcell, -⟩ := stripIndexProperties mode x y width height hx hy
  have hcol : (x + y * width) % width = x := toStripIndex_mod hx y .chained
  have hrow : (x + y * width) / width = y := toStripIndex_div hx y .chained
  rw [permute, List.getElem?_map, List.getElem?_range (cellAddress_lt hx hy), Option.map_some, hcol, hrow,
    List.getD_eq_getElem?_getD, List.getElem?_eq_getElem (by rwa [hg]), Option.getD_some]

/-- The first form of 43_display.md R169, since the wiring is its own inverse: a cell is shown at its strip
index. -/
theorem permute_getElem?_toStripIndex :
    (permute grid width height mode)[toStripIndex x y width mode]? = grid[x + y * width]? := by
  have hcol := stripColumn_lt hx y mode
  rw [toStripIndex_eq, Nat.add_comm, permute_getElem?_place hg hcol hy, toStripIndex_eq,
    stripColumn_stripColumn hx, Nat.add_comm]

end

/-! ### DISP_RENDER -/

theorem colorDataWord_eq_ofNat (c : Color) :
    colorDataWord c = BitVec.ofNat 64
      (0x02 * 2 ^ 56 + c.r.toNat * 2 ^ 16 + c.g.toNat * 2 ^ 8 + c.b.toNat) := by
  rw [← colorDataWord_toNat, BitVec.ofNat_toNat, BitVec.setWidth_eq]

/-- What DISP_RENDER makes of PIX: the grid seen through the wiring (43_display.md R169). -/
def State.rendered (s : State) (mode : WiringMode) : List Color :=
  permute s.grid s.w.toNat s.h.toNat mode

/-- DISP_RENDER that passes its checks writes every pixel and responds with the colours
(43_display.md R170). -/
theorem exec_dispRender_of_inv {s : State} {mode : WiringMode} (hs : Inv s) (hl : s.life = .dispLive)
    (hm : WiringMode.ofByte s.mode = some mode) :
    ∃ b q, exec .dispRender s = .next { s with
        pix := s.rendered mode, buf := b, txq := q
        rsp := s.rsp ++ (s.rendered mode).map colorDataWord ++ [okWord] } ∧
      SameInFlight s.txq q ∧ BufferInv { s with pix := s.rendered mode, buf := b, txq := q } ∧
      ∀ a, a < s.params.headerBytes ∨ s.bufLength ≤ a → b.read a = s.buf.read a := by
  obtain ⟨hbuf, hn, hg⟩ := hs.arrays.displayInv (not_not.2 hl)
  obtain ⟨b, q, e, hq, hb, hout⟩ := writeSlices_all (cs := s.rendered mode) hbuf
    ((permute_length ..).trans hn.symm)
  have hp : s.permuteGrid mode = .ok (s.rendered mode) := if_pos hg
  refine ⟨b, q, ?_, hq, hb, hout⟩
  simp only [exec, execDispRender, check_of_dispLive hl, hm, hp, e, done, State.respond, statusWord_ok]

/-- Settles O49: the permuted grid in both its forms, and every pixel redrawn. -/
theorem dispRenderResult : Obligations.DispRenderResult := by
  intro s
  refine ⟨fun hl => if_pos hl, fun hl hm => ?_, fun hs hl hm => ?_⟩
  · simp only [exec, execDispRender, check_of_dispLive hl, wiringMode_ofByte_eq_none.2 hm]
  · obtain ⟨mode, hmode⟩ := exists_wiringMode hm
    obtain ⟨-, hg⟩ := hs.arrays.grid hl
    obtain ⟨b, q, e, hq, hb, hout⟩ := exec_dispRender_of_inv hs hl hmode
    refine ⟨s.rendered mode, b, q, ?_, hq, permute_length .., fun x y index hx hy hi => ?_,
      fun i hi => hb.readBytes_slice (i := i) hi, hout⟩
    · rw [e, funext colorDataWord_eq_ofNat]
    · rw [eq_toStripIndex_of_isStripIndex hmode hi]
      exact ⟨permute_getElem?_toStripIndex hg hx hy mode, permute_getElem?_place hg hx hy mode⟩

/-! ### DISP_SHIFTR -/

/-- On a grid that fills the strip the rows' rotations write every pixel. -/
theorem rotateRows_toStripShift {s : State} (h : BufferInv s) {width rows : Nat}
    (hn : s.n.toNat = width * rows) (mode : WiringMode) (steps : Nat) :
    s.rotateRows (toStripShift mode rows width steps) =
      s.writeSlices 0 (applyRows s.pix (toStripShift mode rows width steps)) := by
  have hp := h.pix_length
  have hlen := applyRows_toStripShift_length mode steps (hn.symm.trans hp.symm).le
  have hnone : (∀ op ∈ toStripShift mode rows width steps, op.length = 0) ↔
      applyRows s.pix (toStripShift mode rows width steps) = [] := by
    rw [toStripShift_lengths_zero, ← List.length_eq_zero_iff, hlen, hp, hn, Nat.mul_eq_zero]
  rw [rotateRows_eq h fun op hop => (end_le_of_mem_toStripShift hop).trans_eq hn.symm,
    writeSlices_eq h (by omega), splice_all _ _ hlen]
  simp only [hnone]

/-- Where the columns of a row go under the rows' rotations: left by `k` in a mirrored row, right by `k` in
the others (42_grid_mapper.md R154). -/
theorem applyRows_toStripShift_moves {p : List Color} {rows width x y k : Nat} (h : width * rows ≤ p.length)
    (mode : WiringMode) (hx : x < width) (hy : y < rows) (hk : k ≤ width) :
    (reversed mode y = true →
      (applyRows p (toStripShift mode rows width k))[y * width + x]? =
        p[y * width + (x + k) % width]?) ∧
    (reversed mode y = false →
      (applyRows p (toStripShift mode rows width k))[y * width + (x + k) % width]? =
        p[y * width + x]?) := by
  have hmod : (x + k) % width < width := Nat.mod_lt _ (Nat.zero_lt_of_lt hx)
  have hrow : y * width + width ≤ p.length :=
    (end_le_of_mem_toStripShift (List.mem_of_getElem? (toStripShift_getElem? mode hy width k))).trans h
  refine ⟨fun hr => ?_, fun hr => ?_⟩
  · rw [applyRows_toStripShift_row mode k h hy hx, rowDirection, hr, if_pos rfl,
      rotateRange_left_getElem? hrow hk hx]
  · rw [applyRows_toStripShift_row mode k h hy hmod, rowDirection, hr, if_neg nofun,
      rotateRange_right_getElem? hrow hk hx]

/-- What DISP_SHIFTR makes of PIX: every row rotated in its own direction (43_display.md R172). -/
def State.shifted (s : State) (mode : WiringMode) (steps : Nat) : List Color :=
  applyRows s.pix (toStripShift mode s.h.toNat s.w.toNat steps)

theorem shifted_length {s : State} (h : BufferInv s) (hn : s.n.toNat = s.w.toNat * s.h.toNat)
    (mode : WiringMode) (steps : Nat) : (s.shifted mode steps).length = s.pix.length :=
  applyRows_toStripShift_length mode steps (hn.symm.trans h.pix_length.symm).le

/-- DISP_SHIFTR that passes its checks writes what the rows' rotations make of the pixels, and sends the new
buffer (43_display.md R172). -/
theorem exec_dispShiftR_of_inv {s : State} {mode : WiringMode} {steps : BitVec 16} (hs : Inv s)
    (hl : s.life = .dispLive) (hm : WiringMode.ofByte s.mode = some mode)
    (hk : s.h.toNat = 0 ∨ steps.toNat ≤ s.w.toNat) (wait : Bool) :
    ∃ b q, exec (.dispShiftR steps wait) s =
        sendAndFinish { s with pix := s.shifted mode steps.toNat, buf := b, txq := q } wait ∧
      BufferInv { s with pix := s.shifted mode steps.toNat, buf := b, txq := q } ∧
      ∀ a, a < s.params.headerBytes ∨ s.bufLength ≤ a → b.read a = s.buf.read a := by
  obtain ⟨hbuf, hn, -⟩ := hs.arrays.displayInv (not_not.2 hl)
  obtain ⟨b, q, e, -, hb, hout⟩ := writeSlices_all hbuf
    ((shifted_length hbuf hn mode steps.toNat).trans hbuf.pix_length)
  rw [State.shifted, ← rotateRows_toStripShift hbuf hn] at e
  exact ⟨b, q, exec_dispShiftR_of_ok hl hm hk e wait, hb, hout⟩

/-- Settles O50: each row is rotated in its own direction, its slices follow their pixels, and then the new
buffer is sent. -/
theorem dispShiftResult : Obligations.DispShiftResult := by
  intro s steps wait
  refine ⟨fun hl => if_pos hl, fun hl hm => ?_, fun hl hm hh hk => ?_, fun hs hl hm hk => ?_⟩
  · simp only [exec, execDispShiftR, check_of_dispLive hl, wiringMode_ofByte_eq_none.2 hm]
  all_goals obtain ⟨mode, hmode⟩ := exists_wiringMode hm
  · simp only [exec, execDispShiftR, check_of_dispLive hl, hmode, hh, hk, and_self, if_true]
  · obtain ⟨hbuf, hn, -⟩ := hs.arrays.displayInv (not_not.2 hl)
    obtain ⟨b, q, e, hb, hout⟩ := exec_dispShiftR_of_inv hs hl hmode hk wait
    obtain ⟨pl, q', d, e'⟩ := sendAndFinish_eq hb wait
    refine ⟨_, _, b, e.trans e', rfl, rfl, rfl, rfl, shifted_length hbuf hn mode steps.toNat,
      fun x y hx hy src dst hleft hright => ?_, hout⟩
    have hcol : (x + steps.toNat) % s.w.toNat < s.w.toNat := Nat.mod_lt _ (Nat.zero_lt_of_lt hx)
    have hin := cellAddress_lt hx hy
    have hin' := cellAddress_lt hcol hy
    obtain ⟨hmoveL, hmoveR⟩ := applyRows_toStripShift_moves
      (hn.symm.trans hbuf.pix_length.symm).le mode hx hy (k := steps.toNat) (by omega)
    rw [← reversed_iff_mirrored hmode] at hleft hright
    cases hr : reversed mode y with
    | true =>
      obtain ⟨rfl, rfl⟩ := hleft hr
      exact ⟨hmoveL hr, readBytes_slice_of_pix_eq hbuf hb rfl rfl rfl (by omega) (by omega) (hmoveL hr)⟩
    | false =>
      obtain ⟨rfl, rfl⟩ := hright (by rw [hr]; decide)
      exact ⟨hmoveR hr, readBytes_slice_of_pix_eq hbuf hb rfl rfl rfl (by omega) (by omega) (hmoveR hr)⟩

/-! ### A render after a shift -/

theorem SameRegisters.trans {s t u : State} (h : SameRegisters s t) (h' : SameRegisters t u) :
    SameRegisters s u := by
  obtain ⟨hn, htp, hw, hh, hm⟩ := h.session
  obtain ⟨hn', htp', hw', hh', hm'⟩ := h'.session
  exact ⟨h'.params.trans h.params, h'.dec.trans h.dec,
    ⟨hn'.trans hn, htp'.trans htp, hw'.trans hw, hh'.trans hh, hm'.trans hm⟩, h'.grid.trans h.grid⟩

/-- In DISP_LIVE every command but DISP_SETPIXEL and CB_RELEASE keeps what a render reads
(43_display.md R173). -/
theorem exec_keeps_display {i : Instr} {s t : State} (hl : s.life = .dispLive)
    (h : exec i s = .next t) (hset : ∀ x y c, i ≠ .dispSetPixel x y c) (hrel : i ≠ .cbRelease) :
    SameRegisters s t ∧ t.life = .dispLive := by
  cases exec_effect h with
  | response | arrays => exact ⟨⟨rfl, rfl, .refl s, rfl⟩, hl⟩
  | cell x y c _ hi => exact absurd hi (hset x y c)
  | buffer _ _ _ he | display _ _ _ _ _ he => rw [hl] at he; cases he
  | send u _ _ hu _ _ _ e =>
    obtain ⟨hr, hlife⟩ := send_sameRegisters hu e
    exact ⟨hr, hlife.trans hl⟩
  | release hi => exact absurd hi hrel

theorem dispRender_repainted {s t : State} {mode : WiringMode} (hs : Inv s) (hl : s.life = .dispLive)
    (hm : WiringMode.ofByte s.mode = some mode) (h : exec .dispRender s = .next t) :
    Repainted s (s.rendered mode) t := by
  obtain ⟨b, q, e, -, hb, -⟩ := exec_dispRender_of_inv hs hl hm
  rw [h] at e
  cases e
  exact ⟨rfl, rfl, rfl, rfl, rfl, hb⟩

/-- Settles O52: both renders read the same grid in the same session, and the pixels fix the buffer. -/
theorem renderUndoesShift : Obligations.RenderUndoesShift := by
  intro s t u v steps wait hs hrender hshift hagain hl hm
  obtain ⟨mode, hmode⟩ := exists_wiringMode hm
  obtain ⟨hst, hlt⟩ := exec_keeps_display hl hrender nofun nofun
  obtain ⟨htu, hlu⟩ := exec_keeps_display hlt hshift nofun nofun
  have hsu := hst.trans htu
  obtain ⟨hn, htp, hw, hh, hmu⟩ := hsu.session
  have hu : Inv u := (hs.exec hrender).exec hshift
  have hpaint : Repainted s u.pix u :=
    ⟨hsu.params, hlu.trans hl.symm, hn, htp, rfl, (hu.arrays.displayInv (not_not.2 hlu)).1⟩
  have hfirst := dispRender_repainted hs hl hmode hrender
  have hsecond := dispRender_repainted hu hlu (hmu.symm ▸ hmode) hagain
  refine hfirst.arrays_eq (hpaint.trans hsecond) ?_
  rw [State.rendered, State.rendered, hsu.grid, hw, hh]

end Sys2Proof.Machine
end

section
/-! PROOFS. Exceptions (60_exceptions.md): the error a command reports is that of the tables (R186, R191, R195),
a step that reports one does nothing else (R190), and no call follows the release (R203). -/

namespace Sys2Proof.Machine

/-! ### The status word names its status -/

theorem statusCode_injective : Function.Injective Status.code := by
  intro a b
  cases a <;> cases b <;> decide

theorem statusWord_injective : Function.Injective statusWord := by
  intro a b h
  have hn := congrArg BitVec.toNat h
  rw [statusWord_toNat, statusWord_toNat, Nat.add_left_cancel_iff, BitVec.toNat_inj] at hn
  exact statusCode_injective hn

/-- A command raises one error at most. -/
theorem raise_injective (s : State) : Function.Injective (raise s) := by
  intro a b h
  have hr := congrArg State.rsp (Host.Outcome.next.inj h)
  rw [respond_rsp, respond_rsp, List.append_cancel_left_eq, List.singleton_inj] at hr
  exact statusWord_injective hr

/-- Bit 63 tells a status word from a data word (30_encoding.md R99, R100). -/
theorem not_hasKind_statusWord (kind : BitVec 7) (e : Status) : ¬ HasKind kind (statusWord e) := by
  rintro ⟨hbit, -⟩
  simp [statusWord, field_place_same, field_place_other] at hbit

/-! ### The error of a command -/

theorem exec_eq_raise_iff {i : Instr} {s : State} {e : Status} (he : e ≠ .ok) :
    exec i s = raise s e ↔ expectedError i s = some e := by
  refine ⟨fun h => ?_, exec_of_expectedError⟩
  cases hx : expectedError i s with
  | none => exact absurd h (noError_exec hx e he)
  | some e' => rw [raise_injective s ((exec_of_expectedError hx).symm.trans h)]

/-- Settles O21. -/
theorem errorsAreTheTables : Obligations.ErrorsAreTheTables :=
  fun _ _ _ he => exec_eq_raise_iff he

/-- The checks of 60_exceptions.md R186 after the lifecycle check are about operands and the session only. -/
theorem ownError_ne_lifecycleError (i : Instr) (s : State) : ownError i s ≠ some .lifecycleError := by
  fun_cases ownError i s <;> nofun

theorem expectedError_eq_lifecycleError_iff {i : Instr} {s : State} (hm : payloadMalformed i = false) :
    expectedError i s = some .lifecycleError ↔ validIn i s.life = false := by
  rw [expectedError, if_neg (by rw [hm]; decide)]
  split
  · next hv => exact iff_of_true rfl hv
  · next hv => exact iff_of_false (ownError_ne_lifecycleError i s) hv

/-- Settles O20: of the checks only that of the lifecycle reports `LifecycleError`. -/
theorem lifecycleErrorIsTheTable : Obligations.LifecycleErrorIsTheTable :=
  fun _ _ hm => (exec_eq_raise_iff (by decide)).trans (expectedError_eq_lifecycleError_iff hm)

/-! ### A step that reports an error -/

section
variable {e : Status} (he : e ≠ .ok)
include he

theorem concat_ok_ne_concat_error (r r' : List Word) : r ++ [statusWord .ok] ≠ r' ++ [statusWord e] := by
  intro h
  have hl := congrArg List.getLast? h
  rw [List.getLast?_concat, List.getLast?_concat, Option.some_inj] at hl
  exact statusWord_ne_ok he hl.symm

/-- The status of a call is OK, where there is one. -/
theorem call_response_ne_error (c : Bool) (r : List Word) :
    (if c then r ++ [statusWord .ok] else r) ≠ r ++ [statusWord e] := by
  cases c with
  | true => exact concat_ok_ne_concat_error he r r
  | false => simp

/-- A command whose response is an error has done nothing but respond (60_exceptions.md R190). -/
theorem eq_respond_of_error {i : Instr} {s t : State} (h : exec i s = .next t)
    (hr : t.rsp = s.rsp ++ [statusWord e]) : t = s.respond [] e := by
  cases exec_effect h with
  | response data e' hd =>
    by_cases hok : e' = .ok
    · subst hok
      exact absurd hr (concat_ok_ne_concat_error he _ _)
    · rw [hd hok, respond_rsp, List.append_nil, List.append_cancel_left_eq, List.singleton_inj] at hr
      rw [hd hok, statusWord_injective hr]
  | cell | buffer | display | arrays => exact absurd hr (concat_ok_ne_concat_error he _ _)
  | send u _ _ hu _ _ _ hf =>
    obtain ⟨hru, -⟩ := samePorts_of_frame hu
    obtain ⟨b, pl, q, d, rfl⟩ := sendAndFinish_frame hf
    rw [← hru] at hr
    exact absurd hr (call_response_ne_error he _ _)
  | release hi hl =>
    subst hi
    obtain ⟨pl, q, d, e'⟩ := cbRelease_frame hl h
    rw [e'] at hr
    exact absurd hr (call_response_ne_error he _ _)

/-- A status other than OK is a command's whole response. -/
theorem exec_of_error_mem {i : Instr} {s t : State} (hc : s.txCall = none) (hs : s.rsp = [])
    (h : exec i s = .next t) (hm : statusWord e ∈ t.rsp) : t = s.respond [] e := by
  obtain ⟨-, hr⟩ | ⟨data, e', -, hr, herr, hok⟩ := responds_exec hc i t h
  · rw [hr, hs] at hm
    cases hm
  · rw [hr, hs, List.nil_append, List.mem_append, List.mem_singleton] at hm
    obtain hd | hw := hm
    · by_cases hx : e' = .ok
      · obtain ⟨-, hkind⟩ := hok hx
        exact absurd (hkind _ hd) (not_hasKind_statusWord _ e)
      · rw [herr hx] at hd
        cases hd
    · cases statusWord_injective hw
      rw [herr he, List.append_nil] at hr
      exact eq_respond_of_error he h hr

end

/-- With nothing scheduled a step takes no move from the schedule. -/
theorem begun_of_schedule_nil {s : State} (h : s.schedule = []) : s.begun = s := by
  rw [State.begun, State.setSchedule, h, List.tail_nil, ← h]

/-- Settles O18: only an illegal word and a command report an error, each with the word taken. -/
theorem failedCommandChangesNothing : Obligations.FailedCommandChangesNothing := by
  rintro s t e ⟨hs, hr, hc⟩ he h hm
  suffices ht : ∃ w ws, s.cmd = w :: ws ∧ t = (s.fetched ws).respond [] e by
    obtain ⟨w, ws, hcmd, rfl⟩ := ht
    simp [State.fetched, begun_of_schedule_nil hs, State.respond, State.setCmd, State.setDec, hcmd, hr]
  cases step_effect h with
  | wait | decoder => exact absurd hm (List.eq_nil_iff_forall_not_mem.1 hr _)
  | take w ws hw => rw [hr] at hw; cases hw
  | complete _ hk | reset hk | offer _ hk | ready _ hk => rw [hs] at hk; cases hk
  | illegal w ws hcmd _ _ hd =>
    rw [respond_rsp, setCmd_rsp, show s.begun.rsp = [] from hr, List.append_nil, List.nil_append,
      List.mem_singleton] at hm
    refine ⟨w, ws, hcmd, ?_⟩
    rw [statusWord_injective hm, State.fetched, setDec_idle (s := s.begun.setCmd ws) hd]
  | command i w ws _ hcmd _ _ _ hx =>
    exact ⟨w, ws, hcmd, exec_of_error_mem (s := s.fetched ws) he hc hr hx hm⟩

/-! ### The release is the last call -/

/-- A command ends in RELEASED as the release itself, or as one that only responds after it
(60_exceptions.md R203). -/
theorem exec_release_last_call {i : Instr} {s t : State} (h : exec i s = .next t)
    (hs : s.life = .released → s.txCalls.getLast? = some .release) (ht : t.life = .released) :
    t.txCalls.getLast? = some .release := by
  obtain hl | ⟨-, -, hl⟩ | ⟨-, -, hl⟩ | ⟨rfl, hl, -⟩ := exec_life h
  · obtain ⟨data, e, rfl⟩ := exec_of_released (hl.symm.trans ht) h
    exact hs ht
  · rw [hl] at ht; cases ht
  · rw [hl] at ht; cases ht
  · obtain ⟨pl, q, d, rfl⟩ := cbRelease_frame (Life.live_iff.2 hl) h
    exact List.getLast?_concat ..

/-- Settles O24: a step keeps LIFE and the calls, or resets, or runs a command. -/
theorem releaseIsTheLastCall : Obligations.ReleaseIsTheLastCall := by
  intro s t hs h ht
  obtain hc | ⟨-, rfl⟩ | ⟨i, ws, e⟩ := step_core h
  · rw [hc.txCalls]
    exact hs (hc.life.symm.trans ht)
  · cases ht
  · exact exec_release_last_call (s := s.fetched ws) e hs ht

end Sys2Proof.Machine
end

section
/-! PROOFS. A core that waits (70_reset_and_hazards.md): a transmitter call that never returns holds it (R233), a
run that has ended leaves it at rest (R241). Both rest on one fact, that without a reset only the host and the
transmitter move while the core waits. The session keeps the transmitter's own profile (R226, R227). -/

namespace Sys2Proof.Machine

/-! ### The waiting core -/

/-- The core waits: no response word is pending, and a call is outstanding or no word is offered. -/
def Waits (s : State) : Prop := s.rsp = [] ∧ (s.txCall = none → s.cmd = [])

/-- Without a reset, a step in which only the host and the transmitter have moved. -/
structure EnvironmentMoved (s t : State) : Prop where
  core : coreView t = coreView s
  schedule : t.schedule = s.schedule.tail
  cmd : t.cmd = s.cmd ∨ ∃ w, Move.offer w ∈ s.schedule ∧ t.cmd = s.cmd ++ [w]
  quiet : s.txq = [] → t.txq = [] ∧ t.strip = s.strip

theorem turn_of_waits {s : State} (h : Waits s) : turn s = .next s := by
  obtain ⟨hr, hc⟩ := h
  cases ht : s.txCall with
  | none => exact turn_wait hr ht (hc ht)
  | some call => simp only [turn, hr, ht]

theorem environmentMoved_begun (s : State) : EnvironmentMoved s s.begun :=
  ⟨rfl, rfl, .inl rfl, fun hq => ⟨hq, rfl⟩⟩

theorem environmentMoved_complete (s : State) (k : Nat) : EnvironmentMoved s (s.begun.complete k) := by
  obtain ⟨q, d, e⟩ := complete_frame s.begun k
  refine ⟨by rw [e]; rfl, by rw [e]; rfl, .inl (by rw [e]; rfl), fun hq => ?_⟩
  rw [complete_of_txq_nil (s := s.begun) hq]
  exact ⟨hq, rfl⟩

/-- A waiting core goes on to wait until it is reset. -/
theorem step_of_waits {s : State} (h : Waits s) (hn : s.schedule.head? ≠ some .reset) :
    ∃ t, step s = .next t ∧ EnvironmentMoved s t := by
  cases hs : s.schedule with
  | nil =>
    refine ⟨s.begun, ?_, environmentMoved_begun s⟩
    rw [begun_of_schedule_nil hs, step_of_schedule_nil hs, turn_of_waits h]
  | cons m ms =>
    have hb : s.setSchedule ms = s.begun := by rw [State.begun, hs, List.tail_cons]
    rw [step_of_schedule hs, hb]
    cases m with
    | turn => exact ⟨_, turn_of_waits (s := s.begun) h, environmentMoved_begun s⟩
    | complete k => exact ⟨_, rfl, environmentMoved_complete s k⟩
    | reset => exact absurd (by rw [hs]; rfl) hn
    | offer w =>
      exact ⟨_, rfl, rfl, rfl, .inr ⟨w, by rw [hs]; exact List.mem_cons_self, rfl⟩, fun hq => ⟨hq, rfl⟩⟩
    | setReady b => exact ⟨_, rfl, rfl, rfl, .inl rfl, fun hq => ⟨hq, rfl⟩⟩

section
variable {s t : State} (h : coreView t = coreView s)
include h

theorem rsp_eq_of_coreView_eq : t.rsp = s.rsp := (congrArg State.rsp h :)

theorem txCall_eq_of_coreView_eq : t.txCall = s.txCall := (congrArg State.txCall h :)

theorem dec_eq_of_coreView_eq : t.dec = s.dec := (congrArg State.dec h :)

end

/-! ### The outstanding call -/

/-- A call outstanding holds the core for any number of steps without a reset (70_reset_and_hazards.md R233). -/
theorem run_of_outstanding_call (k : Nat) {s : State} (hc : s.txCall ≠ none) (hr : s.rsp = [])
    (hn : Move.reset ∉ s.schedule) :
    ∃ t, Host.Core.run Sys2Proof.core k s = .next t ∧ coreView t = coreView s ∧ s.cmd <+: t.cmd := by
  induction k generalizing s with
  | zero => exact ⟨s, rfl, rfl, List.prefix_rfl⟩
  | succ k ih =>
    obtain ⟨u, hu, hm⟩ := step_of_waits ⟨hr, fun h => absurd h hc⟩ fun h => hn (List.mem_of_head? h)
    have hcmd : s.cmd <+: u.cmd := by
      obtain e | ⟨w, -, e⟩ := hm.cmd
      · rw [e]
      · rw [e]; exact List.prefix_append ..
    obtain ⟨t, ht, hcore, hpre⟩ := ih (s := u) (by rwa [txCall_eq_of_coreView_eq hm.core])
      ((rsp_eq_of_coreView_eq hm.core).trans hr) fun h => hn (List.mem_of_mem_tail (hm.schedule ▸ h))
    exact ⟨t, (run_of_next k hu).trans ht, hcore.trans hm.core, hcmd.trans hpre⟩

/-- Settles O13: a held core keeps its call, so the run has not ended; the reset is that of O17. -/
theorem outstandingCallHoldsTheCore : Obligations.OutstandingCallHoldsTheCore := by
  refine ⟨fun k s hc hr hn => ?_, fun s ms hs => ?_⟩
  · obtain ⟨t, ht, hcore, hcmd⟩ := run_of_outstanding_call k hc hr fun h => hn _ h rfl
    refine ⟨t, ht, hcore, hcmd, ?_⟩
    rintro ⟨-, -, -, hnone⟩
    exact hc ((txCall_eq_of_coreView_eq hcore).symm.trans hnone)
  · obtain ⟨t, ht, hl, hd, hr, hc, -⟩ := resetInputClearsTheCore s ms hs
    exact ⟨t, ht, hc, hr, hd, hl⟩

/-! ### The end of a run -/

theorem Ended.waits {s : State} (h : Ended s) : Waits s := by
  obtain ⟨⟨hcmd, -⟩, -, hr, -⟩ := h
  exact ⟨hr, fun _ => hcmd⟩

theorem AllAccepted.of_tail {s t : State} (h : AllAccepted s) (hc : t.cmd = s.cmd)
    (hs : t.schedule = s.schedule.tail) : AllAccepted t := by
  obtain ⟨hcmd, hoffer⟩ := h
  exact ⟨hc.trans hcmd, fun w hw => hoffer w (List.mem_of_mem_tail (hs ▸ hw))⟩

theorem Ended.of_environmentMoved {s t : State} (h : Ended s) (hm : EnvironmentMoved s t) : Ended t := by
  obtain ⟨ha, hd, hr, hc⟩ := h
  have hcmd : t.cmd = s.cmd := hm.cmd.resolve_right fun ⟨w, hw, _⟩ => ha.2 w hw
  exact ⟨ha.of_tail hcmd hm.schedule, (dec_eq_of_coreView_eq hm.core).trans hd,
    (rsp_eq_of_coreView_eq hm.core).trans hr, (txCall_eq_of_coreView_eq hm.core).trans hc⟩

theorem Ended.applyReset {s : State} (h : Ended s) : Ended s.begun.applyReset := by
  obtain ⟨ha, -⟩ := h
  exact ⟨ha.of_tail rfl rfl, rfl, rfl, rfl⟩

theorem step_of_reset {s : State} (h : s.schedule.head? = some .reset) :
    step s = .next s.begun.applyReset := by
  obtain ⟨ms, hs⟩ := List.head?_eq_some_iff.1 h
  rw [step_of_schedule hs, State.begun, hs, List.tail_cons]
  rfl

/-- Settles O57: the core waits at the end of a run, so a step is the reset or a move of the environment. -/
theorem endedRunRests : Obligations.EndedRunRests := by
  intro s t he h
  by_cases hs : s.schedule.head? = some .reset
  · cases (step_of_reset hs).symm.trans h
    refine ⟨he.applyReset, fun ⟨_, hq⟩ => ⟨⟨he.applyReset, ?_⟩, rfl⟩, absurd hs⟩
    exact List.map_eq_nil_iff.2 hq
  · obtain ⟨u, hu, hm⟩ := step_of_waits he.waits hs
    cases hu.symm.trans h
    have ht := he.of_environmentMoved hm
    exact ⟨ht, fun ⟨_, hq⟩ => ⟨⟨ht, (hm.quiet hq).1⟩, (hm.quiet hq).2⟩, fun _ => hm.core⟩

/-! ### The profile of the session -/

/-- A command in a live state keeps the profile. -/
theorem ProfileMatches.of_live {i : Instr} {s t : State} (hs : ProfileMatches s) (hl : s.life.live = true)
    (h : exec i s = .next t) : ProfileMatches t := by
  have he : s.life ≠ .empty := by intro e; rw [e] at hl; cases hl
  obtain ⟨-, htp, -⟩ := exec_session he h
  intro _
  rw [htp, (exec_params_dec h).1, hs hl]

/-- Settles O56: only a NEW command writes the profile, with its own operand. -/
theorem profileStaysMatched : Obligations.ProfileStaysMatched := by
  intro i s t hs hn hd h
  cases exec_effect h with
  | response | cell => exact hs
  | buffer n p hi => exact fun _ => hn n p hi
  | display w ht m p hi => exact fun _ => hd w ht m p hi
  | arrays _ _ _ _ _ hl | send _ _ _ _ _ _ hl | release _ hl => exact hs.of_live hl h

end Sys2Proof.Machine
end
